-- ==== Sys2Proof/Word.lean ====
section
/-! DEFINITION. The two word types of the bus (R180): a byte on D0 to D7 and a location on A0 to A5. -/

namespace Sys2Proof

/-- A byte on D0 to D7, a staging byte, a store byte or a byte of a frame. -/
abbrev Byte := BitVec 8

/-- One of the 64 locations that A0 to A5 name (R180). -/
abbrev Location := BitVec 6

end Sys2Proof
end

