-- ==== Sys2Proof/Syntax.lean ====
section
/-! DEFINITION. The commands of the part: one constructor of `Instr` for each row of spec/opcode_table.json, in the table's
order. The table gives its rows no operands; those here are what the outside decides about an event (log 3). A command
that the host writes to COMMAND takes its parameters from ARG and the staging in the state, so its row has no operand. -/

namespace Sys2Proof

/-- The two serial channels (R94). -/
inductive Channel where
  | a
  | b
  deriving DecidableEq, Repr

/-- Which supply's rise ended the time in which neither held the backup domain (R18). -/
inductive Supply where
  /-- VMAIN rises above its good threshold, alone or together with VBACK. -/
  | vmain
  /-- VBACK rises with VMAIN still below its threshold: the backup domain starts and the main domain stays down. -/
  | vback
  deriving DecidableEq, Repr

/-- When a tick comes, and the orders in which the blocks take it, where the data manual gives none (R6, R71, R103, R130). All
four `false` is the order in which every block takes the tick in the one event (log 5). -/
structure TickOrder where
  /-- Oscillator periods that pass before the tick's own since the step before (R1, log 4). -/
  waited : Fin 8
  /-- An edge found at this tick is stamped with the count from before the tick. Either way its pair is the one that the Time Base
  holds at this row: with a time load or step that meets the tick, from before it where the load's row comes later (log 5). -/
  edgeStampBefore : Bool
  /-- The tick reaches the Dispatch Unit after the line actions of the occurrences taken at it: the rows OCCURRENCE that follow
  this one in the queue. Of no account where none follows. -/
  lateDu : Bool
  /-- The tick reaches transmitter A after the requests that those occurrences start. -/
  lateTxA : Bool
  /-- The tick reaches transmitter B after the requests that those occurrences start. -/
  lateTxB : Bool
  deriving DecidableEq, Repr

/-- A fall of a receiver's input. -/
structure Fall where
  /-- Bit times of mark the gap count rose by since it last restarted or resumed, or since a CH_READ last showed it (R123,
  log 9). -/
  markBits : Byte
  /-- With the cross-loop on, the place of the bit with which the line fell, in the character or break that the other
  transmitter has on it (R111, log 18); of no account with the loop off. -/
  bit : Fin 12
  deriving DecidableEq, Repr

/-- How a read cycle on a location ran (R181, R182). -/
inductive ReadCycle where
  /-- CS_N stayed low until RD_N rose and the address stood still. -/
  | whole
  /-- CS_N rose before RD_N: the data was driven, no side effect is taken. -/
  | selectFirst
  /-- RD_N and WR_N were both low at some moment: the cycle is ignored whole. -/
  | bothStrobes
  /-- The address moved within the cycle: the host took its data while `latched` was addressed, and the location of the row
  was the one addressed at the rise of RD_N. -/
  | moved (latched : Location)
  deriving DecidableEq, Repr

/-- How a write cycle ended (R180, R182). -/
inductive WriteCycle where
  /-- WR_N rose with CS_N low and RD_N high. -/
  | taken
  /-- CS_N was high at the rise of WR_N: not a write. -/
  | notSelected
  /-- RD_N and WR_N were both low at some moment: the cycle is ignored whole. -/
  | bothStrobes
  deriving DecidableEq, Repr

/-- Whether an agenda command completed while RESULT was being read, and which code the host then took (R190). -/
inductive ResultMeet where
  /-- No completion fell within the cycle. -/
  | none
  /-- One did, and the host took the code from before it. -/
  | latchesOld
  /-- One did, and the host took the code it wrote. -/
  | latchesNew
  deriving DecidableEq, Repr

/-- The commands, one for each row of spec/opcode_table.json. -/
inductive Instr where
  /-- COLD_START (R18). `halfCycles`, here and in the two rows that also end a reset: how many of the bus cycles that follow in
  the queue began before CS_N, RD_N and WR_N were all high together (R183, log 15). -/
  | coldStart (supply : Supply) (halfCycles : Nat)
  /-- MAIN_POWER_UP (R18, R183). -/
  | mainPowerUp (halfCycles : Nat)
  /-- VMAIN_FALL (R18). `vbackHolds`: VBACK holds the backup domain from here on. -/
  | vmainFall (vbackHolds : Bool)
  /-- RESET_N_ASSERT (R183). -/
  | resetNAssert
  /-- RESET_N_RELEASE (R183). -/
  | resetNRelease (halfCycles : Nat)
  /-- TICK (R1): the oscillator period that takes the prescaler phase from 7 to 0, after those that `order.waited` counts.
  `ev`: the levels on EV0 to EV3, bit n for EVn, as this tick samples them (R129). -/
  | tick (ev : BitVec 4) (order : TickOrder)
  /-- PULSE_END (R72). -/
  | pulseEnd
  /-- OCCURRENCE (R50). -/
  | occurrence
  /-- TX_CHARACTER_END (R104). -/
  | txCharacterEnd (ch : Channel)
  /-- TX_BREAK_TIME_END (R106). -/
  | txBreakTimeEnd (ch : Channel)
  /-- TX_LEAD_END (R98). -/
  | txLeadEnd (ch : Channel)
  /-- RX_FALL (R116). -/
  | rxFall (ch : Channel) (fall : Fall)
  /-- RX_RISE (R119). -/
  | rxRise (ch : Channel)
  /-- MARK_QUALIFIED (R116). -/
  | markQualified (ch : Channel)
  /-- START_BIT_SAMPLE (R116). `level`: the level sampled at the middle of the start bit. -/
  | startBitSample (ch : Channel) (level : Bool)
  /-- RX_CHARACTER_COMPLETE (R117). `data`: the data bits sampled, the first in bit 0; `parityBit` and `stopBit`: the levels
  sampled for the parity bit (of no account with parity NONE) and for the first stop bit. -/
  | rxCharacterComplete (ch : Channel) (data : Byte) (parityBit : Bool) (stopBit : Bool)
  /-- GAP_EXPIRY (R123). -/
  | gapExpiry (ch : Channel)
  /-- BREAK_DETECTED (R118). -/
  | breakDetected (ch : Channel)
  /-- EDGE_GROUP (R130). -/
  | edgeGroup
  /-- ARM_REQUEST_GROUP (R62). -/
  | armRequestGroup
  /-- TIME_SNAPSHOT (R8), COMMAND code 0x10. -/
  | timeSnapshot
  /-- TIME_LOAD_CAL (R12), code 0x11. -/
  | timeLoadCal
  /-- TIME_LOAD_COUNT (R13), code 0x12. -/
  | timeLoadCount
  /-- TIME_STEP (R14), code 0x13. -/
  | timeStep
  /-- TIME_RUN (R17), code 0x14. -/
  | timeRun
  /-- TIME_STOP (R15), code 0x15. -/
  | timeStop
  /-- ENTRY_LOAD (R27, R30), code 0x20. -/
  | entryLoad
  /-- ENTRY_READ (R27, R32), code 0x21. -/
  | entryRead
  /-- ENTRY_RELEASE (R27, R34), code 0x22. -/
  | entryRelease
  /-- ENTRY_ARM_AT (R27, R41), code 0x23. -/
  | entryArmAt
  /-- ENTRY_ARM_IN (R27, R42), code 0x24. -/
  | entryArmIn
  /-- ENTRY_DISARM (R27, R44), code 0x25. -/
  | entryDisarm
  /-- AGENDA_CLEAR (R27, R36), code 0x26. -/
  | agendaClear
  /-- AGENDA_COMMAND_COMPLETION (R27). -/
  | agendaCommandCompletion
  /-- LINE_WRITE (R75), code 0x30. -/
  | lineWrite
  /-- LINE_READ (R78), code 0x31. -/
  | lineRead
  /-- MSG_DEFINE (R81), code 0x40. -/
  | msgDefine
  /-- MSG_UNDEFINE (R82), code 0x41. -/
  | msgUndefine
  /-- MSG_READ (R83), code 0x42. -/
  | msgRead
  /-- CH_CONFIG (R95), code 0x50. -/
  | chConfig
  /-- CH_FRAME_CONFIG (R126), code 0x51. -/
  | chFrameConfig
  /-- CH_SEND (R101), code 0x52. -/
  | chSend
  /-- CH_BREAK (R102), code 0x53. -/
  | chBreak
  /-- CH_ABORT (R107), code 0x54. -/
  | chAbort
  /-- CH_TX_RESET (R109), code 0x55. -/
  | chTxReset
  /-- CH_RX_RESET (R127), code 0x56. -/
  | chRxReset
  /-- CH_READ (R112), code 0x57. -/
  | chRead
  /-- LOOP_SET (R110), code 0x58. -/
  | loopSet
  /-- EV_CONFIG (R131), code 0x59. -/
  | evConfig
  /-- CAP_POP (R143), code 0x60. -/
  | capPop
  /-- CAP_FLUSH (R146), code 0x61. -/
  | capFlush
  /-- TRIG_WRITE (R151), code 0x70. -/
  | trigWrite
  /-- TRIG_READ (R152), code 0x71. -/
  | trigRead
  /-- TRIG_DISABLE (R153), code 0x72. -/
  | trigDisable
  /-- NOTICE_POP (R168), code 0x80. -/
  | noticePop
  /-- NOTICE_FLUSH (R172), code 0x81. -/
  | noticeFlush
  /-- SOFT_RESET (R192), code 0xA5. -/
  | softReset
  /-- UNKNOWN_COMMAND_CODE (R191): a write of `code` to COMMAND. -/
  | unknownCommandCode (code : Byte)
  /-- RESULT_READ (R190): a read of location 0x03. -/
  | resultRead (cycle : ReadCycle) (meet : ResultMeet)
  /-- MM_PTR_LOW_WRITE (R88): a write to location 0x0A. -/
  | mmPtrLowWrite (byte : Byte)
  /-- MM_PTR_HIGH_WRITE (R88): a write to location 0x0B. -/
  | mmPtrHighWrite (byte : Byte)
  /-- MM_PTR_LOW_READ (R88): a read of location 0x0A. -/
  | mmPtrLowRead (cycle : ReadCycle)
  /-- MM_DATA_READ (R89): a read of location 0x0C. -/
  | mmDataRead (cycle : ReadCycle)
  /-- MM_DATA_WRITE (R90): a write to location 0x0C. -/
  | mmDataWrite (byte : Byte)
  /-- CAP_DATA_READ (R145): a read of location 0x0D. -/
  | capDataRead (cycle : ReadCycle)
  /-- FAULT_WRITE (R174): a write to location 0x06. -/
  | faultWrite (byte : Byte)
  /-- FAULT_ENABLE_WRITE (R175): a write to location 0x07. -/
  | faultEnableWrite (byte : Byte)
  /-- CAUSE_ENABLE_WRITE (R177): a write to location 0x05. -/
  | causeEnableWrite (byte : Byte)
  /-- NOTICE_THRESHOLD_WRITE (R170): a write to location 0x08. -/
  | noticeThresholdWrite (byte : Byte)
  /-- REGISTER_WRITE (R180): a write cycle on any location. -/
  | registerWrite (cycle : WriteCycle) (loc : Location) (byte : Byte)
  /-- BACKUP_DOMAIN_LOSS (R18). -/
  | backupDomainLoss
  deriving DecidableEq, Repr

end Sys2Proof
end

