-- ==== Sys2Proof/WellFormed.lean ====
section
/-! DEFINITION. Which terms of `Instr` name a command in the one way the table names it. `exec` gives every term a meaning,
a term that is not well formed too: the checks say only that another row, or no event at all, is what the term describes. -/

namespace Sys2Proof

/-- The codes of the command code table (R196). -/
def commandCodes : List Byte :=
  [0x10, 0x11, 0x12, 0x13, 0x14, 0x15, 0x20, 0x21, 0x22, 0x23, 0x24, 0x25, 0x26, 0x30, 0x31, 0x40, 0x41, 0x42,
   0x50, 0x51, 0x52, 0x53, 0x54, 0x55, 0x56, 0x57, 0x58, 0x59, 0x60, 0x61, 0x70, 0x71, 0x72, 0x80, 0x81, 0xA5]

/-- The locations whose write side has rows of its own in the table: COMMAND, CAUSE_ENABLE, FAULT, FAULT_ENABLE,
NOTICE_THRESHOLD, MM_PTR low and high, MM_DATA. -/
def ownWriteRows : List Location := [0x03, 0x05, 0x06, 0x07, 0x08, 0x0A, 0x0B, 0x0C]

/-- The greatest gap count, 15 character times of 12 bit times (R196, channel copy location 0x28). -/
def maxGapBits : Nat := 180

/-- A read cycle whose address moved began on another location than the row's. -/
def ReadCycle.wellFormedAt (cycle : ReadCycle) (loc : Location) : Bool :=
  match cycle with
  | .moved latched => latched != loc
  | .whole | .selectFirst | .bothStrobes => true

/-- The well-formed commands. -/
def Instr.wellFormed : Instr → Bool
  | .rxFall _ fall => fall.markBits.toNat ≤ maxGapBits
  | .unknownCommandCode code => !commandCodes.contains code
  | .resultRead cycle _ => cycle.wellFormedAt 0x03
  | .mmPtrLowRead cycle => cycle.wellFormedAt 0x0A
  | .mmDataRead cycle => cycle.wellFormedAt 0x0C
  | .capDataRead cycle => cycle.wellFormedAt 0x0D
  | .registerWrite _ loc _ => !ownWriteRows.contains loc
  | .coldStart _ _ | .mainPowerUp _ | .vmainFall _ | .resetNAssert | .resetNRelease _ | .tick _ _ | .pulseEnd
  | .occurrence | .txCharacterEnd _ | .txBreakTimeEnd _ | .txLeadEnd _ | .rxRise _ | .markQualified _
  | .startBitSample _ _ | .rxCharacterComplete _ _ _ _ | .gapExpiry _ | .breakDetected _ | .edgeGroup
  | .armRequestGroup | .timeSnapshot | .timeLoadCal | .timeLoadCount | .timeStep | .timeRun | .timeStop | .entryLoad
  | .entryRead | .entryRelease | .entryArmAt | .entryArmIn | .entryDisarm | .agendaClear | .agendaCommandCompletion
  | .lineWrite | .lineRead | .msgDefine | .msgUndefine | .msgRead | .chConfig | .chFrameConfig | .chSend | .chBreak
  | .chAbort | .chTxReset | .chRxReset | .chRead | .loopSet | .evConfig | .capPop | .capFlush | .trigWrite | .trigRead
  | .trigDisable | .noticePop | .noticeFlush | .softReset | .mmPtrLowWrite _ | .mmPtrHighWrite _ | .mmDataWrite _
  | .faultWrite _ | .faultEnableWrite _ | .causeEnableWrite _ | .noticeThresholdWrite _ | .backupDomainLoss => true

end Sys2Proof
end

