-- ==== Sys2Proof/Decode.lean ====
section
/-! DEFINITION. The command code table (R196), which names the command a write to COMMAND offers, and the table's own
decoding, which is empty: no row of spec/opcode_table.json gives bits (log 24). -/

namespace Sys2Proof

/-- The command that a code written to COMMAND names (R196); a code that names none is the row UNKNOWN_COMMAND_CODE (R191). -/
def commandOfCode (code : Byte) : Instr :=
  match code.toNat with
  | 0x10 => .timeSnapshot
  | 0x11 => .timeLoadCal
  | 0x12 => .timeLoadCount
  | 0x13 => .timeStep
  | 0x14 => .timeRun
  | 0x15 => .timeStop
  | 0x20 => .entryLoad
  | 0x21 => .entryRead
  | 0x22 => .entryRelease
  | 0x23 => .entryArmAt
  | 0x24 => .entryArmIn
  | 0x25 => .entryDisarm
  | 0x26 => .agendaClear
  | 0x30 => .lineWrite
  | 0x31 => .lineRead
  | 0x40 => .msgDefine
  | 0x41 => .msgUndefine
  | 0x42 => .msgRead
  | 0x50 => .chConfig
  | 0x51 => .chFrameConfig
  | 0x52 => .chSend
  | 0x53 => .chBreak
  | 0x54 => .chAbort
  | 0x55 => .chTxReset
  | 0x56 => .chRxReset
  | 0x57 => .chRead
  | 0x58 => .loopSet
  | 0x59 => .evConfig
  | 0x60 => .capPop
  | 0x61 => .capFlush
  | 0x70 => .trigWrite
  | 0x71 => .trigRead
  | 0x72 => .trigDisable
  | 0x80 => .noticePop
  | 0x81 => .noticeFlush
  | 0xA5 => .softReset
  | _ => .unknownCommandCode code

/-- The command that a word spells by the table's bits. The table gives no row any bits, so no word spells a command. -/
def decodeTableWord (_nbits _w : Nat) : Option Instr := none

end Sys2Proof
end

