-- ==== Sys2Proof/Config.lean ====
section
/-! DEFINITION. The numbers the data manual fixes once for the whole part, and the values it leaves open (free values:
constants without a body, so that nothing can be proved of what they are). -/

namespace Sys2Proof.Config

/-- END, the last representable tick time (Time Conventions, R2). -/
def endTime : Nat := 12925992959999

/-- Requests a transmit queue holds (R99). -/
def queueDepth : Nat := 8

/-- Record slots of the Capture Unit (R134). -/
def captureSlots : Nat := 32

/-- Byte places of a channel's ring (R137). -/
def ringSize : Nat := 512

/-- Records the notice queue holds (R166). -/
def noticeDepth : Nat := 32

/-- Bytes of the message store (R88). -/
def storeSize : Nat := 2048

/-- FREE VALUE (R89, R93): the byte the store holds at an offset that nothing has written since the store last lost its
contents. The first argument counts those losses, the second is the offset. The part does not fix it (log 8). -/
opaque storeUnknown : Nat → Nat → Byte

/-- FREE VALUE (R123, R128): how far the gap count of a frame has risen, in bit times that no row counts, when a CH_READ
looks at it. The argument counts the looks; the reader keeps the result within the bounds R123 gives (log 9). -/
opaque gapDraw : Nat → Nat

/-- FREE VALUE (R115, R123): the level at a pin that no event has told since the receiver began to watch it, where a CH_READ needs
it to know whether the gap count runs. The argument is the one of `gapDraw` (log 9). -/
opaque pinLevel : Nat → Bool

/-- FREE VALUE (R1, R129): the levels on EV0 to EV3, bit n for EVn, at a tick that falls on an empty queue, where no command says
them. The argument counts such ticks (log 4). -/
opaque idleLevels : Nat → BitVec 4

/-- FREE VALUE (R6, R130): whether an edge found at a tick that falls on an empty queue is stamped with the count from before the
tick. The argument counts such ticks (log 4). -/
opaque idleStampBefore : Nat → Bool

end Sys2Proof.Config
end

