-- ==== Sys2Proof/Machine/State.lean ====
section
/-! DEFINITION. Everything the data manual gives the part to hold, one structure for each of its blocks, and its values at
reset. Each register has one home. A count is a `Nat`; what software sees as bits is a bit vector. -/

namespace Sys2Proof.Machine

/-! ## Shared data -/

/-- One value for each of the two serial channels. -/
structure PerChannel (α : Type) where
  a : α
  b : α
  deriving DecidableEq, Repr

/-- A time count and a generation, read as one pair (R6). -/
structure Stamp where
  count : Nat
  generation : BitVec 8
  deriving DecidableEq, Repr

/-- Who acted: the source of a line's last change (R67), of a transmit request (R99) and of a notice (R164). -/
inductive Source where
  | slot (i : Fin 64)
  | host
  | reset
  deriving DecidableEq, Repr

/-- The ten result codes (R191). -/
inductive ResultCode where
  | ok | badCommand | badArg | badState | locked | full | empty | outOfRange | badDate | reset
  deriving DecidableEq, Repr

/-- Why a SEND request was refused (R52). -/
inductive RefuseReason where
  | noMessage | queueFull | channelOff
  deriving DecidableEq, Repr

/-- Why an entry became SPENT (R21). -/
inductive SpentReason where
  | oneShot | repeatDone | endOfRange
  deriving DecidableEq, Repr

/-! ## Supplies -/

/-- The supplies and RESET_N as the part sees them (R18, R183). -/
structure Power where
  /-- VMAIN is above its good threshold. -/
  vmainGood : Bool
  /-- One of the supplies holds the backup domain. -/
  backupHeld : Bool
  /-- The RESET_N pin is high. -/
  resetHigh : Bool
  /-- How many of the coming bus cycles began before CS_N, RD_N and WR_N were all high together after the main domain left its
  reset: each is ignored whole (R183, log 15). -/
  skipCycles : Nat
  deriving DecidableEq, Repr

/-! ## Time Base -/

/-- The run state (R2). -/
inductive RunState where
  | running | stopped
  deriving DecidableEq, Repr

/-- Calendar fields (R9 to R11). -/
structure Calendar where
  year : Nat
  month : Nat
  day : Nat
  hour : Nat
  minute : Nat
  second : Nat
  fraction : Nat
  deriving DecidableEq, Repr

/-- The snapshot latch (R8). -/
structure Latch where
  stamp : Stamp
  run : RunState
  date : Calendar
  weekday : Nat
  deriving DecidableEq, Repr

/-- The Time Base (R1 to R8); it lies in the backup domain. -/
structure TimeBase where
  count : Nat
  generation : BitVec 8
  run : RunState
  /-- TIME_VALID (R5). -/
  valid : Bool
  /-- The prescaler phase, 0..7 (R1). -/
  phase : Nat
  /-- The write side of the TIME page, locations 0x10 to 0x21 (R7). -/
  staging : Vector Byte 18
  latch : Latch
  deriving DecidableEq, Repr

/-! ## Bus Interface -/

/-- The common registers and the command port (R184, R185, R188). The port is BUSY while the Agenda Unit holds a command in
flight (R187), so its state is read there. -/
structure Biu where
  page : Byte
  arg : Byte
  result : ResultCode
  cmdDone : Bool
  deriving DecidableEq, Repr

/-! ## Agenda Unit -/

/-- The four slot states (R20). -/
inductive SlotState where
  | free | held | armed | spent
  deriving DecidableEq, Repr

/-- The notify field of an entry (R21). -/
structure Notify where
  onFire : Bool
  onMiss : Bool
  onSpent : Bool
  onTxEnd : Bool
  deriving DecidableEq, Repr

/-- The outcome of an occurrence; only a performed one carries flags (R21, R59). -/
inductive OccurrenceOutcome where
  | performed (txRefused : Option RefuseReason) (chainRefused : Bool)
  | missed
  deriving DecidableEq, Repr

/-- The last occurrence record (R59). -/
structure LastOccurrence where
  due : Nat
  lateness : Nat
  generation : BitVec 8
  outcome : OccurrenceOutcome
  deriving DecidableEq, Repr

/-- The entry record (R21). `repeats` is the manual's repeat field. -/
structure Entry where
  due : Nat
  period : Nat
  repeats : Nat
  remaining : Nat
  tolerance : Nat
  setMask : BitVec 8
  clearMask : BitVec 8
  pulseWidth : Nat
  message : Option (Fin 32)
  channel : Channel
  notify : Notify
  chainTarget : Option (Fin 64)
  chainDelay : Nat
  fired : Nat
  missed : Nat
  last : Option LastOccurrence
  spent : Option SpentReason
  deriving DecidableEq, Repr

/-- One agenda slot (R20). -/
structure Slot where
  state : SlotState
  entry : Entry
  deriving DecidableEq, Repr

/-- The seven agenda commands (R27). -/
inductive AgendaCommand where
  | load | read | release | armAt | armIn | disarm | clear
  deriving DecidableEq, Repr

/-- The command in flight, with ARG and the entry staging as copied at its acceptance (R27). -/
structure InFlight where
  command : AgendaCommand
  arg : Byte
  staging : Vector Byte 28
  deriving DecidableEq, Repr

/-- The result window (R33). -/
structure ResultWindow where
  slot : Fin 64
  image : Slot
  deriving DecidableEq, Repr

/-- The Agenda Unit (R20 to R39). -/
structure Agenda where
  slots : Vector Slot 64
  /-- The ARMED slots by due time and then by slot number (R39); the head of the list is the head. -/
  dueList : List (Fin 64)
  /-- The write side of the ENTRY page, locations 0x10 to 0x2B (R26). -/
  staging : Vector Byte 28
  window : ResultWindow
  inFlight : Option InFlight
  deriving DecidableEq, Repr

/-! ## Dispatch Unit -/

/-- A pending return (R67); the tick that brings `remaining` to 0 ends it (R72). -/
structure PendingReturn where
  level : Bool
  remaining : Nat
  deriving DecidableEq, Repr

/-- A line record (R67). -/
structure Line where
  level : Bool
  /-- DRIVEN, as against HIGH_Z (R68). -/
  driven : Bool
  pending : Option PendingReturn
  source : Source
  deriving DecidableEq, Repr

/-- The Dispatch Unit (R67, R76, R78). -/
structure DispatchUnit where
  lines : Vector Line 8
  /-- The write side of the LINES page, locations 0x10 to 0x14 (R76). -/
  staging : Vector Byte 5
  copy : Vector Line 8
  /-- MODEL's own (log 5): a tick the Time Base has taken and this unit has not (R71). -/
  tickOwed : Bool
  deriving DecidableEq, Repr

/-! ## Message Memory -/

/-- A message descriptor (R80). -/
structure Descriptor where
  defined : Bool
  offset : Nat
  length : Nat
  busy : Nat
  deriving DecidableEq, Repr

/-- The descriptor copy (R83). -/
structure DescriptorCopy where
  message : Fin 32
  descriptor : Descriptor
  deriving DecidableEq, Repr

/-- The Message Memory (R80, R83, R84, R88). -/
structure MessageMemory where
  /-- The store bytes written since the store last lost its contents, by rising offset (log 8). -/
  store : List Host.Cell
  /-- MODEL's own (log 8): how often the store has lost its contents. -/
  epoch : Nat
  directory : Vector Descriptor 32
  pointer : BitVec 11
  ptrCopy : BitVec 3
  /-- The write side of the MESSAGE page, locations 0x10 to 0x13 (R84). -/
  staging : Vector Byte 4
  copy : DescriptorCopy
  deriving DecidableEq, Repr

/-! ## Serial channels -/

inductive DataBits where
  | seven | eight
  deriving DecidableEq, Repr

inductive Parity where
  | none | even | odd
  deriving DecidableEq, Repr

inductive StopBits where
  | one | two
  deriving DecidableEq, Repr

/-- The channel configuration record (R94). -/
structure ChannelConfig where
  divisor : Nat
  dataBits : DataBits
  parity : Parity
  stopBits : StopBits
  txEnable : Bool
  rxEnable : Bool
  deriving DecidableEq, Repr

/-- A transmit request (R99). A BREAK's source is always HOST. -/
inductive Request where
  | send (message : Fin 32) (source : Source) (notify : Bool)
  | brk (length : Nat)
  deriving DecidableEq, Repr

/-- The transmitter states (R103). -/
inductive TxState where
  | idle | sending | breaking | stopping
  deriving DecidableEq, Repr

/-- What the transmitter puts on its line (R97, R98). -/
inductive TxOut where
  | mark
  | lead
  | char (byte : Byte)
  | low
  deriving DecidableEq, Repr

/-- A transmitter (R99 to R106). -/
structure Transmitter where
  state : TxState
  queue : List Request
  out : TxOut
  byteIndex : Nat
  breakRemaining : Nat
  elapsed : Nat
  /-- MODEL's own (log 5): a tick the Time Base has taken and this transmitter has not (R103). -/
  tickOwed : Bool
  deriving DecidableEq, Repr

/-- The receiver states (R114). -/
inductive RxState where
  | idle | inFrame | inChar | brk
  deriving DecidableEq, Repr

/-- The frame part of a receiver (R114). -/
inductive FramePart where
  | none | opened | dropped
  deriving DecidableEq, Repr

/-- Frame flags found by the receiver (R114). -/
structure FrameFlags where
  parity : Bool
  framing : Bool
  deriving DecidableEq, Repr

/-- MODEL's own (log 18): what the other transmitter's line does after the bits of a `LoopHeard`. -/
inductive LineAfter where
  /-- The bits from number `since` on are those of what the line carries now, and nothing after them is sent yet. -/
  | carries (since : Nat)
  /-- The transmitter has gone IDLE with the last of the bits: its line rests at mark (R97). -/
  | rest
  /-- It rested, and has begun again after a time that no row counts. -/
  | unknown
  deriving DecidableEq, Repr

/-- MODEL's own (log 18): what a receiver hears from a fall on, with the cross-loop on: the bits the other transmitter has put on
its line without a break between them, that transmitter's divisor (R94, R111), and what follows them. -/
structure LoopHeard where
  bits : List Bool
  divisor : Nat
  after : LineAfter
  deriving DecidableEq, Repr

/-- MODEL's own (log 18): with the cross-loop on, how far along what the other transmitter's line now carries a receiver has
come. -/
structure LinePlace where
  /-- How many bits of 1 the line ended with before it; absent where the line had rested at mark. -/
  before : Option Nat
  /-- All of the mark that the receiver hears now, or hears next, counts for its qualification: it has begun no later than that
  mark to watch, and has completed no character with a first stop bit at 0 within it (R115, R116). -/
  whole : Bool
  /-- The moment since it began that the receiver's events have reached, in the halves of `LoopHeard.unit`. -/
  heard : Nat
  /-- How long, in these halves, the line stood at 1 from the end of the receiver's last character to the beginning of what it
  carries now; absent where it rested in between, or no character has been heard (R123). -/
  mark : Option Nat
  /-- The moment since that beginning from which on mark counts for the gap: 0, or the end of the last character (R123). -/
  counted : Nat
  /-- `heard` is that moment itself, so that what the line does next is what the receiver hears next; else the receiver began to
  watch, or sampled, at a moment that no row counts, and `heard` is only the earliest that it can be. -/
  tracked : Bool
  deriving DecidableEq, Repr

/-- The low watch (R114): the stamp of the fall that began the present low, and whether that fall was taken as the start
bit of the character in hand (R117, R118 judge the two kinds of low differently). -/
structure LowWatch where
  stamp : Stamp
  byStartBit : Bool
  /-- MODEL's own (log 18): with the cross-loop on, what the fall began. -/
  looped : Option LoopHeard
  deriving DecidableEq, Repr

/-- The frame rules (R114, R126). -/
structure FrameRules where
  gap : Nat
  terminator : Option Byte
  maxLength : Nat
  deriving DecidableEq, Repr

/-- A receiver (R114). -/
structure Receiver where
  state : RxState
  frame : FramePart
  noted : Option Stamp
  chars : Nat
  flags : FrameFlags
  /-- The gap count in bit times, as far as the events taken tell it (R123, log 9). -/
  gap : Nat
  markQualified : Bool
  lowWatch : Option LowWatch
  /-- In IN_CHAR: the start bit has been sampled at 0 (R116). -/
  startConfirmed : Bool
  /-- MODEL's own (log 17): the level at the input, absent until an event tells it. -/
  input : Option Bool
  /-- MODEL's own (log 18): with the cross-loop on, what the start bit in hand began. -/
  looped : Option LoopHeard
  /-- MODEL's own (log 18): with the cross-loop on, how far along the other transmitter's line the receiver has come. -/
  place : LinePlace
  rules : FrameRules
  deriving DecidableEq, Repr

/-- One serial channel. -/
structure SerialChannel where
  config : ChannelConfig
  tx : Transmitter
  rx : Receiver
  deriving DecidableEq, Repr

/-- The head request as the channel copy shows it (R112). -/
structure HeadCopy where
  request : Option Request
  byteIndex : Nat
  breakRemaining : Nat
  elapsed : Nat
  deriving DecidableEq, Repr

/-- The channel copy (R112, R128). -/
structure ChannelCopy where
  channel : Channel
  config : ChannelConfig
  loop : Bool
  txState : TxState
  queued : Nat
  head : HeadCopy
  rxState : RxState
  frame : FramePart
  chars : Nat
  flags : FrameFlags
  gap : Nat
  markQualified : Bool
  rules : FrameRules
  rising : BitVec 4
  falling : BitVec 4
  samples : Vector (Option Bool) 4
  deriving DecidableEq, Repr

/-- The two serial channels and what they share (R94, R96, R110, R112). -/
structure Serial where
  chans : PerChannel SerialChannel
  /-- The cross-loop (R110). -/
  loop : Bool
  /-- The write side of the CHANNEL page, locations 0x10 to 0x1E (R96, R126, R131). -/
  staging : Vector Byte 15
  copy : ChannelCopy
  deriving DecidableEq, Repr

/-! ## Event inputs -/

inductive EdgeDir where
  | rising | falling
  deriving DecidableEq, Repr

/-- The enabled edges found at one tick, in line order, and their stamp (R130). -/
structure EdgeGroup where
  edges : List (Fin 4 × EdgeDir)
  stamp : Stamp
  deriving DecidableEq, Repr

/-- The Event Input block (R129). `found` holds the groups on their way to the Capture Unit (log 7). -/
structure EventInputs where
  last : Vector (Option Bool) 4
  rising : BitVec 4
  falling : BitVec 4
  found : List EdgeGroup
  deriving DecidableEq, Repr

/-! ## Capture Unit -/

/-- What a capture record is a record of: its kind, source and, for an EDGE, direction (R133). -/
inductive CaptureSource where
  | frame (ch : Channel)
  | edge (line : Fin 4) (dir : EdgeDir)
  deriving DecidableEq, Repr

inductive EndCause where
  | gap | terminator | maxLength | brk
  deriving DecidableEq, Repr

/-- The flags of a FRAME record (R133). -/
structure RecordFlags where
  parity : Bool
  framing : Bool
  brk : Bool
  truncated : Bool
  deriving DecidableEq, Repr

/-- A capture record (R133). `place` is the ring position of its first byte. -/
structure CaptureRecord where
  source : CaptureSource
  stamp : Stamp
  length : Nat
  flags : RecordFlags
  endCause : Option EndCause
  matched : List (Fin 8)
  place : Nat
  deriving DecidableEq, Repr

/-- A channel's ring (R137): the place of its oldest held byte, and the bytes held, oldest first. -/
structure Ring where
  start : Nat
  held : List Byte
  deriving DecidableEq, Repr

/-- The Capture Unit (R134, R136, R137, R144). -/
structure Capture where
  opened : PerChannel (Option CaptureRecord)
  queue : List CaptureRecord
  rings : PerChannel Ring
  window : Option CaptureRecord
  readIndex : Nat
  dropped : PerChannel Nat
  droppedEv : Nat
  deriving DecidableEq, Repr

/-! ## Trigger Unit -/

/-- The ten sources a rule can name (R149). -/
inductive TriggerSource where
  | frame (ch : Channel)
  | edge (line : Fin 4) (dir : EdgeDir)
  deriving DecidableEq, Repr

/-- A trigger rule (R149). -/
structure Rule where
  enabled : Bool
  source : TriggerSource
  prefixBytes : List Byte
  target : Fin 64
  delay : Nat
  oneShot : Bool
  miss : Bool
  deriving DecidableEq, Repr

/-- An arm request (R157), current or detached (R158). -/
structure ArmRequest where
  rule : Fin 8
  slot : Fin 64
  due : Nat
  current : Bool
  deriving DecidableEq, Repr

/-- The rule copy (R152). -/
structure RuleCopy where
  number : Fin 8
  rule : Rule
  deriving DecidableEq, Repr

/-- The Trigger Unit (R149, R150, R152, R158). -/
structure Triggers where
  rules : Vector Rule 8
  answers : List (List ArmRequest)
  /-- The write side of the TRIGGER page, locations 0x10 to 0x1A (R150). -/
  staging : Vector Byte 11
  copy : RuleCopy
  deriving DecidableEq, Repr

/-! ## Notice and Interrupt Unit -/

/-- Why a trigger missed (R160). -/
inductive MissReason where
  | staleTime | outOfRange | notHeld
  deriving DecidableEq, Repr

/-- The six kinds of notice with their subject, value and flags (R164). -/
inductive NoticeBody where
  | fired (slot : Fin 64) (lateness : Nat) (txRefused : Option RefuseReason) (chainRefused : Bool)
  | missed (slot : Fin 64) (consumed : Nat)
  | spent (slot : Fin 64) (reason : SpentReason)
  | txDone (ch : Channel) (message : Fin 32) (source : Source) (duration : Nat)
  | txAborted (ch : Channel) (message : Fin 32) (source : Source) (bytesSent : Nat)
  | triggerMiss (rule : Fin 8) (slot : Fin 64) (reason : MissReason)
  deriving DecidableEq, Repr

/-- A notice record (R164). -/
structure Notice where
  body : NoticeBody
  stamp : Stamp
  deriving DecidableEq, Repr

/-- The Notice and Interrupt Unit (R166, R169 to R175, R177). -/
structure Notices where
  queue : List Notice
  lost : Nat
  threshold : Nat
  /-- FAULT, in the bit positions of R196. -/
  faults : BitVec 6
  faultEnable : BitVec 6
  causeEnable : BitVec 4
  /-- The NOTICE page copy; absent stands for kind none. -/
  copy : Option Notice
  deriving DecidableEq, Repr

/-! ## The whole part -/

/-- The state of the part. -/
structure State where
  power : Power
  tb : TimeBase
  biu : Biu
  au : Agenda
  du : DispatchUnit
  mm : MessageMemory
  ser : Serial
  evi : EventInputs
  cu : Capture
  tu : Triggers
  niu : Notices
  /-- MODEL's own (log 14): the byte the last read cycle of a row drove for the host, absent where it drove none. -/
  hostRead : Option Byte
  /-- MODEL's own (log 9): how many free gap counts have been drawn. -/
  gapDraws : Nat
  /-- MODEL's own (log 4): how many ticks have fallen on an empty queue. -/
  idleTicks : Nat
  /-- MODEL's own (log 1): the commands that are waiting, first in, first out. -/
  pending : List Instr
  deriving DecidableEq, Repr

/-- The reasons a step can stop with a fault: none, since no event of the data manual stops the part (an error is a result
code, a fault flag or a count). No constructor, so nobody raises one, which is safe. -/
inductive Fault where
  deriving DecidableEq, Repr

/-- The reasons a command can be refused. -/
inductive Refusal where
  /-- Raised only by an arm of `exec` that has no meaning yet; no arm is in that case. Safe: the run stops there. -/
  | notModelled (mnemonic : String)
  deriving DecidableEq, Repr

/-- What a meaning answers. -/
abbrev Answer := Host.Outcome State Fault Refusal

/-! ## Reset values -/

/-- The FREE image (R22). -/
def Entry.freeImage : Entry where
  due := 0
  period := 0
  repeats := 0
  remaining := 0
  tolerance := 0
  setMask := 0
  clearMask := 0
  pulseWidth := 0
  message := none
  channel := .a
  notify := { onFire := false, onMiss := false, onSpent := false, onTxEnd := false }
  chainTarget := none
  chainDelay := 0
  fired := 0
  missed := 0
  last := none
  spent := none

/-- A FREE slot (R22). -/
def Slot.freed : Slot := { state := .free, entry := .freeImage }

/-- The agenda after every reset of the main domain (R38; the staging by R26, the window by R33). -/
def Agenda.reset : Agenda where
  slots := Vector.replicate 64 Slot.freed
  dueList := []
  staging := ((Vector.replicate 28 0).set 18 255).set 21 255
  window := { slot := 0, image := Slot.freed }
  inFlight := none

/-- A line record after every reset of the main domain (R79). -/
def Line.reset : Line := { level := false, driven := false, pending := none, source := .reset }

/-- The Dispatch Unit after every reset of the main domain (R79). -/
def DispatchUnit.reset : DispatchUnit where
  lines := Vector.replicate 8 Line.reset
  staging := Vector.replicate 5 0
  copy := Vector.replicate 8 Line.reset
  tickOwed := false

/-- An undefined message that no request names (R93). -/
def Descriptor.undefined : Descriptor := { defined := false, offset := 0, length := 0, busy := 0 }

/-- The Message Memory when its store has lost its contents for the `epoch`-th time (R93). -/
def MessageMemory.lost (epoch : Nat) : MessageMemory where
  store := []
  epoch := epoch
  directory := Vector.replicate 32 Descriptor.undefined
  pointer := 0
  ptrCopy := 0
  staging := Vector.replicate 4 0
  copy := { message := 0, descriptor := Descriptor.undefined }

/-- A transmitter after every reset of the main domain (R113). -/
def Transmitter.reset : Transmitter where
  state := .idle
  queue := []
  out := .mark
  byteIndex := 0
  breakRemaining := 0
  elapsed := 0
  tickOwed := false

/-- The channel configuration after every reset of the main domain (R113). -/
def ChannelConfig.reset : ChannelConfig where
  divisor := 1
  dataBits := .eight
  parity := .none
  stopBits := .one
  txEnable := false
  rxEnable := false

/-- No frame flag. -/
def FrameFlags.clear : FrameFlags := { parity := false, framing := false }

/-- The frame rules after every reset of the main domain (R132). -/
def FrameRules.reset : FrameRules := { gap := 2, terminator := none, maxLength := 256 }

/-- A receiver after every reset of the main domain (R132). -/
def Receiver.reset : Receiver where
  state := .idle
  frame := .none
  noted := none
  chars := 0
  flags := .clear
  gap := 0
  markQualified := false
  lowWatch := none
  startConfirmed := false
  input := none
  looped := none
  place := { before := none, whole := true, heard := 0, mark := none, counted := 0, tracked := true }
  rules := .reset

/-- A serial channel after every reset of the main domain. -/
def SerialChannel.reset : SerialChannel := { config := .reset, tx := .reset, rx := .reset }

/-- The channel copy after every reset of the main domain (R112, R128). -/
def ChannelCopy.reset : ChannelCopy where
  channel := .a
  config := .reset
  loop := false
  txState := .idle
  queued := 0
  head := { request := none, byteIndex := 0, breakRemaining := 0, elapsed := 0 }
  rxState := .idle
  frame := .none
  chars := 0
  flags := .clear
  gap := 0
  markQualified := false
  rules := .reset
  rising := 0
  falling := 0
  samples := Vector.replicate 4 none

/-- The serial channels after every reset of the main domain (R113). -/
def Serial.reset : Serial where
  chans := { a := .reset, b := .reset }
  loop := false
  staging := Vector.replicate 15 0
  copy := .reset

/-- The Event Input block after every reset of the main domain (R132). -/
def EventInputs.reset : EventInputs where
  last := Vector.replicate 4 none
  rising := 0
  falling := 0
  found := []

/-- An empty ring (R148); the place at which it starts is of no account (log 26). -/
def Ring.reset : Ring := { start := 0, held := [] }

/-- The Capture Unit after every reset of the main domain (R148). -/
def Capture.reset : Capture where
  opened := { a := none, b := none }
  queue := []
  rings := { a := .reset, b := .reset }
  window := none
  readIndex := 0
  dropped := { a := 0, b := 0 }
  droppedEv := 0

/-- A trigger rule after every reset of the main domain (R163). -/
def Rule.reset : Rule where
  enabled := false
  source := .frame .a
  prefixBytes := []
  target := 0
  delay := 0
  oneShot := false
  miss := false

/-- The Trigger Unit after every reset of the main domain (R163). -/
def Triggers.reset : Triggers where
  rules := Vector.replicate 8 Rule.reset
  answers := []
  staging := Vector.replicate 11 0
  copy := { number := 0, rule := .reset }

/-- The Notice and Interrupt Unit after every reset of the main domain (R179). -/
def Notices.reset : Notices where
  queue := []
  lost := 0
  threshold := 1
  faults := 0
  faultEnable := 0
  causeEnable := 0
  copy := none

/-- The command port after every reset of the main domain (R193). -/
def Biu.reset : Biu := { page := 0, arg := 0, result := .reset, cmdDone := false }

/-- The Time Base after a cold start (R19). -/
def TimeBase.coldStart : TimeBase where
  count := 0
  generation := 0
  run := .stopped
  valid := false
  phase := 0
  staging := Vector.replicate 18 0
  latch := { stamp := { count := 0, generation := 0 }, run := .stopped,
             date := { year := 0, month := 0, day := 0, hour := 0, minute := 0, second := 0, fraction := 0 },
             weekday := 0 }

/-- The part right after a cold start with VMAIN good and RESET_N high (R19, R38, R79, R93, R113, R132, R148, R163, R179,
R193; log 10). -/
def State.reset : State where
  power := { vmainGood := true, backupHeld := true, resetHigh := true, skipCycles := 0 }
  tb := .coldStart
  biu := .reset
  au := .reset
  du := .reset
  mm := .lost 0
  ser := .reset
  evi := .reset
  cu := .reset
  tu := .reset
  niu := .reset
  hostRead := none
  gapDraws := 0
  idleTicks := 0
  pending := []

end Sys2Proof.Machine
end

