-- ==== Sys2Proof/Machine/Operands.lean ====
section
/-! DEFINITION. How commands read their operands: the byte order of the bus (R194), ARG (R185), and the fields of the
staging pages (R196). A field is read as the staging's bytes spell it; a command's own rule checks its range. -/

namespace Sys2Proof.Machine

/-! ## Byte order (R194: least significant byte first) -/

/-- The value of bytes, least significant first. -/
def leValue : List Byte → Nat
  | [] => 0
  | b :: rest => b.toNat + 256 * leValue rest

/-- The `k` low bytes of a number, least significant first. -/
def leBytes : Nat → Nat → List Byte
  | 0, _ => []
  | k + 1, n => BitVec.ofNat 8 n :: leBytes k (n / 256)

/-- A staging byte. -/
def stagedByte {n : Nat} (st : Vector Byte n) (i : Nat) : Byte := st.toList.getD i 0

/-- The value of `k` staging bytes from index `i`. -/
def stagedValue {n : Nat} (st : Vector Byte n) (i k : Nat) : Nat := leValue ((st.toList.drop i).take k)

/-- A yes/no bit as a byte. -/
def bitByte (b : Bool) : Byte := if b then 1 else 0

/-! ## The two channels -/

/-- The value of one channel. -/
def PerChannel.get {α : Type} (p : PerChannel α) : Channel → α
  | .a => p.a
  | .b => p.b

/-- The pair with one channel's value replaced. -/
def PerChannel.set {α : Type} (p : PerChannel α) (ch : Channel) (x : α) : PerChannel α :=
  match ch with
  | .a => { p with a := x }
  | .b => { p with b := x }

/-- The other channel. -/
def otherChannel : Channel → Channel
  | .a => .b
  | .b => .a

/-- One serial channel of the part. -/
def State.chan (s : State) (ch : Channel) : SerialChannel := s.ser.chans.get ch

/-- The transmitter of a channel. -/
def State.tx (s : State) (ch : Channel) : Transmitter := (s.chan ch).tx

/-- The receiver of a channel. -/
def State.rx (s : State) (ch : Channel) : Receiver := (s.chan ch).rx

/-- The part with one channel's transmitter replaced. -/
def State.withTx (s : State) (ch : Channel) (t : Transmitter) : State :=
  { s with ser.chans := s.ser.chans.set ch { s.chan ch with tx := t } }

/-- The part with one channel's receiver replaced. -/
def State.withRx (s : State) (ch : Channel) (r : Receiver) : State :=
  { s with ser.chans := s.ser.chans.set ch { s.chan ch with rx := r } }

/-! ## ARG (R185) -/

/-- ARG as a slot number (R28). -/
def slotOfArg (arg : Byte) : Option (Fin 64) := if h : arg.toNat < 64 then some ⟨arg.toNat, h⟩ else none

/-- ARG or a staged byte as a message number (R81). -/
def messageOfByte (arg : Byte) : Option (Fin 32) := if h : arg.toNat < 32 then some ⟨arg.toNat, h⟩ else none

/-- ARG as a rule number (R151). -/
def ruleOfArg (arg : Byte) : Option (Fin 8) := if h : arg.toNat < 8 then some ⟨arg.toNat, h⟩ else none

/-- ARG as a channel: 0 for A, 1 for B (R95). -/
def channelOfArg (arg : Byte) : Option Channel :=
  if arg = 0 then some .a else if arg = 1 then some .b else none

/-- A byte whose checked values are 0 (no) and 1 (yes). -/
def yesNoOfByte (b : Byte) : Option Bool :=
  if b = 0 then some false else if b = 1 then some true else none

/-! ## TIME staging (page 1 of R196) -/

/-- The staged calendar fields (R7). -/
def stagedCalendar (st : Vector Byte 18) : Calendar where
  year := stagedValue st 0 2
  month := stagedValue st 2 1
  day := stagedValue st 3 1
  hour := stagedValue st 5 1
  minute := stagedValue st 6 1
  second := stagedValue st 7 1
  fraction := stagedValue st 8 2

/-- The staged 6-byte count (R13). -/
def stagedCount (st : Vector Byte 18) : Nat := stagedValue st 10 6

/-- The staged step delta, two's complement (R14). -/
def stagedDelta (st : Vector Byte 18) : Int := (BitVec.ofNat 16 (stagedValue st 16 2)).toInt

/-! ## ENTRY staging (page 0 of R196) -/

/-- The notify flags of a byte; its other bits are ignored (R194). -/
def notifyOfByte (b : Byte) : Notify where
  onFire := b.getLsbD 0
  onMiss := b.getLsbD 1
  onSpent := b.getLsbD 2
  onTxEnd := b.getLsbD 3

/-- The staged channel, bit 0 of its byte (R196). -/
def channelOfBit (b : Byte) : Channel := if b.getLsbD 0 then .b else .a

/-- A byte that names one of `n` things or, at 255, none (R26). Values between are out of range: `none`. -/
def optionalIndex (n : Nat) (b : Byte) : Option (Option (Fin n)) :=
  if h : b.toNat < n then some (some ⟨b.toNat, h⟩) else if b = 255 then some none else none

/-- The staged ARM_IN delay (R42). -/
def stagedArmIn (st : Vector Byte 28) : Nat := stagedValue st 24 4

/-- The staged due time. -/
def stagedDue (st : Vector Byte 28) : Nat := stagedValue st 0 6

/-- The entry that ENTRY_LOAD makes of the staging, with message and chain target as already checked (R30): remaining is
set from repeat, the counts are 0, last occurrence and spent reason absent (R25). -/
def stagedEntry (st : Vector Byte 28) (message : Option (Fin 32)) (chain : Option (Fin 64)) : Entry where
  due := stagedDue st
  period := stagedValue st 6 4
  repeats := stagedValue st 10 2
  remaining := stagedValue st 10 2
  tolerance := stagedValue st 12 2
  setMask := stagedByte st 14
  clearMask := stagedByte st 15
  pulseWidth := stagedValue st 16 2
  message := message
  channel := channelOfBit (stagedByte st 19)
  notify := notifyOfByte (stagedByte st 20)
  chainTarget := chain
  chainDelay := stagedValue st 22 2
  fired := 0
  missed := 0
  last := none
  spent := none

/-! ## LINES staging (page 7 of R196) -/

def stagedSetMask (st : Vector Byte 5) : Byte := stagedByte st 0
def stagedClearMask (st : Vector Byte 5) : Byte := stagedByte st 1
def stagedPulseWidth (st : Vector Byte 5) : Nat := stagedValue st 2 2
def stagedDriveMask (st : Vector Byte 5) : Byte := stagedByte st 4

/-! ## MESSAGE staging (page 3 of R196) -/

def stagedOffset (st : Vector Byte 4) : Nat := stagedValue st 0 2
def stagedLength (st : Vector Byte 4) : Nat := stagedValue st 2 2

/-! ## CHANNEL staging (page 2 of R196) -/

/-- Data bits, 7 or 8 (R95). -/
def dataBitsOfByte (b : Byte) : Option DataBits :=
  if b = 7 then some .seven else if b = 8 then some .eight else none

/-- Parity: 0 NONE, 1 EVEN, 2 ODD (R196). -/
def parityOfByte (b : Byte) : Option Parity :=
  if b = 0 then some .none else if b = 1 then some .even else if b = 2 then some .odd else none

/-- Stop bits, 1 or 2 (R95). -/
def stopBitsOfByte (b : Byte) : Option StopBits :=
  if b = 1 then some .one else if b = 2 then some .two else none

/-- The staged configuration, or nothing where checks 2 to 5 of R95 fail. -/
def stagedConfig (st : Vector Byte 15) : Option ChannelConfig :=
  if stagedValue st 0 2 = 0 then none
  else
    match dataBitsOfByte (stagedByte st 2), parityOfByte (stagedByte st 3), stopBitsOfByte (stagedByte st 4) with
    | some d, some p, some t =>
      some { divisor := stagedValue st 0 2, dataBits := d, parity := p, stopBits := t,
             txEnable := (stagedByte st 5).getLsbD 0, rxEnable := (stagedByte st 5).getLsbD 1 }
    | _, _, _ => none

/-- The staged SEND message number (R96). -/
def stagedSendMessage (st : Vector Byte 15) : Byte := stagedByte st 6

/-- The staged SEND notify choice, bit 0 (R96, R194). -/
def stagedSendNotify (st : Vector Byte 15) : Bool := (stagedByte st 7).getLsbD 0

/-- The staged BREAK length (R96). -/
def stagedBreakLength (st : Vector Byte 15) : Nat := stagedValue st 8 1

/-- The staged frame rules, or nothing where checks 2 to 4 of R126 fail; the terminator byte is kept only when its presence
is 1 (R126). -/
def stagedFrameRules (st : Vector Byte 15) : Option FrameRules :=
  let gap := stagedValue st 9 1
  let maxLength := stagedValue st 12 2
  if gap = 0 ∨ 15 < gap then none
  else
    match yesNoOfByte (stagedByte st 10) with
    | none => none
    | some present =>
      if maxLength = 0 ∨ 256 < maxLength then none
      else some { gap := gap, terminator := if present then some (stagedByte st 11) else none, maxLength := maxLength }

/-- The staged rising enables, bit n for EVn (R196). -/
def stagedRising (st : Vector Byte 15) : BitVec 4 := (stagedByte st 14).extractLsb' 0 4

/-- The staged falling enables, bit 4 + n for EVn (R196). -/
def stagedFalling (st : Vector Byte 15) : BitVec 4 := (stagedByte st 14).extractLsb' 4 4

/-! ## TRIGGER staging (page 4 of R196) -/

/-- The direction of the edge sources: even codes from 2 are rising, odd ones falling (R194). -/
def edgeDirOfBit (b : Bool) : EdgeDir := if b then .falling else .rising

/-- A trigger source code (R194); 10..255 name no source. -/
def triggerSourceOfByte (b : Byte) : Option TriggerSource :=
  match b.toNat with
  | 0 => some (.frame .a)
  | 1 => some (.frame .b)
  | 2 => some (.edge 0 .rising)
  | 3 => some (.edge 0 .falling)
  | 4 => some (.edge 1 .rising)
  | 5 => some (.edge 1 .falling)
  | 6 => some (.edge 2 .rising)
  | 7 => some (.edge 2 .falling)
  | 8 => some (.edge 3 .rising)
  | 9 => some (.edge 3 .falling)
  | _ => none

/-- The staged rule, or nothing where checks 2 to 6 of R151 fail. The miss flag is clear. -/
def stagedRule (st : Vector Byte 11) : Option Rule :=
  let len := stagedValue st 2 1
  match triggerSourceOfByte (stagedByte st 1) with
  | none => none
  | some source =>
    if 4 < len then none
    else
      match source, len with
      | .edge _ _, _ + 1 => none
      | _, _ =>
        match slotOfArg (stagedByte st 7), yesNoOfByte (stagedByte st 0), yesNoOfByte (stagedByte st 10) with
        | some target, some enabled, some oneShot =>
          some { enabled := enabled, source := source, prefixBytes := (st.toList.drop 3).take len, target := target,
                 delay := stagedValue st 8 2, oneShot := oneShot, miss := false }
        | _, _, _ => none

end Sys2Proof.Machine
end

