-- ==== Sys2Proof/Machine/Flags.lean ====
section
/-! DEFINITION. The flags of the part: the six fault flags (R173), the STATUS bits (R186), the four causes, CAUSE and IRQ_N
(R176 to R178). Causes and IRQ_N are levels, so they are functions of the state. -/

namespace Sys2Proof.Machine

/-- The six fault flags (R173). -/
inductive FaultFlag where
  | cmdOverrun | noticeLost | captureLost | mmConflict | timeEnd | actionRefused
  deriving DecidableEq, Repr

/-- The bit of a fault flag in FAULT and FAULT_ENABLE (R196). -/
def FaultFlag.bit : FaultFlag → Nat
  | .cmdOverrun => 0
  | .noticeLost => 1
  | .captureLost => 2
  | .mmConflict => 3
  | .timeEnd => 4
  | .actionRefused => 5

/-- The flag alone in FAULT. -/
def FaultFlag.mask (f : FaultFlag) : BitVec 6 := BitVec.ofNat 6 (2 ^ f.bit)

/-- Set a fault flag, whether or not it was set (R173). -/
def setFault (f : FaultFlag) (s : State) : State := { s with niu.faults := s.niu.faults ||| f.mask }

/-- A fault flag is set. -/
def State.faultSet (s : State) (f : FaultFlag) : Bool := s.niu.faults.getLsbD f.bit

/-- The command port is BUSY: the Agenda Unit holds a command in flight (R187, log 29). -/
def State.portBusy (s : State) : Bool := s.au.inFlight.isSome

/-- STATUS (R186). -/
def State.status (s : State) : Byte :=
  bitByte s.portBusy
    ||| (bitByte s.biu.cmdDone <<< 1)
    ||| (bitByte (decide (s.tb.run = .running)) <<< 2)
    ||| (bitByte s.tb.valid <<< 3)
    ||| (bitByte (decide (s.tb.count = Config.endTime)) <<< 4)
    ||| (bitByte s.ser.loop <<< 5)

/-- The four interrupt causes (R176). -/
inductive Cause where
  | fault | capture | notice | command
  deriving DecidableEq, Repr

/-- The causes in priority order (R177). -/
def Cause.byPriority : List Cause := [.fault, .capture, .notice, .command]

/-- The number of a cause in CAUSE (R176). -/
def Cause.number : Cause → Byte
  | .fault => 1
  | .capture => 2
  | .notice => 3
  | .command => 4

/-- The bit of a cause in CAUSE_ENABLE (R196). -/
def Cause.bit : Cause → Nat
  | .fault => 0
  | .capture => 1
  | .notice => 2
  | .command => 3

/-- A cause is pending (R176). -/
def State.pendingCause (s : State) : Cause → Bool
  | .fault => s.niu.faults &&& s.niu.faultEnable != 0
  | .capture => !s.cu.queue.isEmpty
  | .notice => decide (s.niu.threshold ≤ s.niu.queue.length)
  | .command => s.biu.cmdDone

/-- A cause is pending and its enable is on (R177). -/
def State.activeCause (s : State) (c : Cause) : Bool := s.pendingCause c && s.niu.causeEnable.getLsbD c.bit

/-- CAUSE (R177). -/
def State.cause (s : State) : Byte := ((Cause.byPriority.find? s.activeCause).map Cause.number).getD 0

/-- IRQ_N is asserted, that is, driven low (R178). While VMAIN is below its threshold or RESET_N is low it is not (R183). -/
def State.irqAsserted (s : State) : Bool :=
  s.power.vmainGood && s.power.resetHigh && Cause.byPriority.any s.activeCause

end Sys2Proof.Machine
end

