-- ==== Sys2Proof/Machine/Format.lean ====
section
/-! DEFINITION. The character format of a channel (Time Conventions, R97, R98) and the bits that a transmitter puts on its
line. -/

namespace Sys2Proof.Machine

/-! ## Characters -/

/-- The number of data bits. -/
def DataBits.count : DataBits → Nat
  | .seven => 7
  | .eight => 8

/-- The number of stop bits. -/
def StopBits.count : StopBits → Nat
  | .one => 1
  | .two => 2

/-- The bits of a character time (Time Conventions): start, data, parity where there is one, stop. -/
def ChannelConfig.charBits (c : ChannelConfig) : Nat :=
  1 + c.dataBits.count + (if c.parity = .none then 0 else 1) + c.stopBits.count

/-- The data bits of a byte that a channel sends or hears: all eight, or the lower seven (R97, R117). -/
def ChannelConfig.dataOf (c : ChannelConfig) (b : Byte) : Byte :=
  match c.dataBits with
  | .seven => b &&& 0x7F
  | .eight => b

/-- The bits of a byte, least significant first. -/
def dataBitList (n : Nat) (b : Byte) : List Bool := (List.range n).map b.getLsbD

/-- An odd number of the bits are 1. -/
def oddOnes (bits : List Bool) : Bool := bits.foldl (fun acc b => acc ^^ b) false

/-- The parity bit of a byte (R97), where the format has one. -/
def ChannelConfig.parityBit (c : ChannelConfig) (b : Byte) : Option Bool :=
  let odd := oddOnes (dataBitList c.dataBits.count b)
  match c.parity with
  | .none => none
  | .even => some odd
  | .odd => some !odd

/-- A character on the line, bit by bit (R97). -/
def ChannelConfig.characterBits (c : ChannelConfig) (b : Byte) : List Bool :=
  [false] ++ dataBitList c.dataBits.count b ++ (c.parityBit b).toList ++ List.replicate c.stopBits.count true

/-! ## What a transmitter puts out -/

/-- The level a transmitter is known to put out; within a character it depends on the bit in hand. -/
def TxOut.level : TxOut → Option Bool
  | .mark | .lead => some true
  | .low => some false
  | .char _ => none

/-- The bits that what is on a transmitter's line fixes, from its beginning (R97, R98): a character's, one character time of a
break, before whose end it cannot stop (R107), or the one bit time of a lead; mark has no end that is fixed. -/
def SerialChannel.lineBits (c : SerialChannel) : List Bool :=
  match c.tx.out with
  | .mark => []
  | .lead => [true]
  | .low => List.replicate c.config.charBits false
  | .char b => c.config.characterBits b

end Sys2Proof.Machine
end

