-- ==== Sys2Proof/Machine/Store.lean ====
section
/-! DEFINITION. The store of the Message Memory (R88) as a list of the bytes written, in one canonical form: offsets strictly
rising, each below 2048. An unlisted offset holds no known value; what it reads as is the free value of `storeByte`. -/

namespace Sys2Proof.Machine

/-- The canonical form of the store. -/
abbrev Memory.wf (m : List Host.Cell) : Prop :=
  m.Pairwise (fun x y => x.1 < y.1) ∧ ∀ c ∈ m, c.1 < Config.storeSize

/-- The byte written at an offset, where one has been. -/
def Memory.read : List Host.Cell → Nat → Option Byte
  | [], _ => none
  | (a, b) :: rest, i => if i = a then some b else Memory.read rest i

/-- The store with a byte written. -/
def Memory.write : List Host.Cell → Nat → Byte → List Host.Cell
  | [], i, v => [(i, v)]
  | (a, b) :: rest, i, v =>
    if i < a then (i, v) :: (a, b) :: rest
    else if i = a then (i, v) :: rest
    else (a, b) :: Memory.write rest i v

/-- What the store holds at an offset: the byte written there, else a free value (R89; log 8). -/
def storeByte (mm : MessageMemory) (i : Nat) : Byte :=
  (Memory.read mm.store i).getD (Config.storeUnknown mm.epoch i)

/-- A message's range holds an offset (R80). -/
def Descriptor.covers (d : Descriptor) (i : Nat) : Bool := decide (d.offset ≤ i) && decide (i < d.offset + d.length)

/-- An offset lies in the range of a busy message (R90). -/
def busyAt (mm : MessageMemory) (i : Nat) : Bool :=
  mm.directory.toList.any fun d => decide (0 < d.busy) && d.covers i

/-- One more request names a message (R85). -/
def claimMessage (m : Fin 32) (mm : MessageMemory) : MessageMemory :=
  { mm with directory := mm.directory.set m { mm.directory[m] with busy := mm.directory[m].busy + 1 } }

/-- A request naming a message leaves its queue (R86). -/
def releaseMessage (m : Fin 32) (mm : MessageMemory) : MessageMemory :=
  { mm with directory := mm.directory.set m { mm.directory[m] with busy := mm.directory[m].busy - 1 } }

end Sys2Proof.Machine
end

