-- ==== Sys2Proof/Machine/Ops.lean ====
section
/-! DEFINITION. The operations that several commands share: the bus and the command port, notices, line actions, the transmit
queues, arming a slot, capture records with their trigger evaluation, and the resets. -/

namespace Sys2Proof.Machine

/-! ## Time and power -/

/-- The time count and generation as one pair (R6). -/
def State.now (s : State) : Stamp := { count := s.tb.count, generation := s.tb.generation }

/-- The main domain is powered and out of reset: its blocks take events (R18, R183). -/
def State.mainAlive (s : State) : Bool := s.power.vmainGood && s.power.resetHigh

/-- An event of a main-domain block; while the main domain is down or held in reset there is none (R38, R79, R113, R132). -/
def whenMain (s : State) (f : State → State) : State := if s.mainAlive then f s else s

/-! ## The bus and the command port -/

/-- The bus takes the next cycle: VMAIN is above its threshold, RESET_N is high, and the cycle began after CS_N, RD_N and WR_N
were all high (R183). -/
def State.busTaken (s : State) : Bool := s.mainAlive && s.power.skipCycles == 0

/-- A bus cycle. One that the bus does not take is ignored whole, and is then one fewer to be ignored (R183). -/
def onBus (s : State) (f : State → State) : State :=
  if s.busTaken then f s
  else if s.mainAlive then { s with power.skipCycles := s.power.skipCycles - 1 }
  else s

/-- A write of a code to COMMAND. While the port is BUSY it is refused with CMD_OVERRUN (R189); else the command is accepted,
which clears CMD_DONE (R187), and `f` is what its acceptance does. -/
def offer (s : State) (f : State → State) : State :=
  onBus s fun s =>
    if s.portBusy then setFault .cmdOverrun s else f { s with biu.cmdDone := false }

/-- The completion of a command: its result is written and CMD_DONE set (R188). -/
def complete (answer : State × ResultCode) : State :=
  { answer.1 with biu.result := answer.2, biu.cmdDone := true }

/-- A command that completes in the event of its acceptance (R187). -/
def atOnce (s : State) (f : State → State × ResultCode) : State := offer s fun s => complete (f s)

/-- The acceptance of an agenda command: ARG and the entry staging are copied and the port becomes BUSY (R27). -/
def acceptAgenda (command : AgendaCommand) (s : State) : State :=
  offer s fun s =>
    { s with au.inFlight := some { command := command, arg := s.biu.arg, staging := s.au.staging } }

/-! ## Notices (R165 to R167) -/

/-- A notice reaches the Notice and Interrupt Unit, stamped with the time: it joins the tail, or is lost where the queue is
full (R167). -/
def post (body : NoticeBody) (s : State) : State :=
  if s.niu.queue.length < Config.noticeDepth then
    { s with niu.queue := s.niu.queue ++ [{ body := body, stamp := s.now }] }
  else
    setFault .noticeLost { s with niu.lost := min (s.niu.lost + 1) 255 }

/-- Post a notice when it is asked for. -/
def postIf (wanted : Bool) (body : NoticeBody) (s : State) : State := if wanted then post body s else s

/-! ## Line actions (R69, R70) -/

/-- A line action on one line: a pending return is cancelled, the level set, cleared or toggled, and with a width above 0 a
return to the level from before is recorded. A line in neither mask is untouched. -/
def Line.act (l : Line) (inSet inClear : Bool) (width : Nat) (source : Source) : Line :=
  if inSet || inClear then
    { l with
      level := if inSet && inClear then !l.level else inSet
      pending := if width = 0 then none else some { level := l.level, remaining := width }
      source := source }
  else l

/-- A line action on all eight lines, as one event. -/
def lineAction (setMask clearMask : BitVec 8) (width : Nat) (source : Source) (d : DispatchUnit) : DispatchUnit :=
  { d with lines := d.lines.mapIdx fun i l => l.act (setMask.getLsbD i) (clearMask.getLsbD i) width source }

/-- One tick of a line: its return counts down by one (R71), and the tick that brings it to 0 ends the pulse: the line takes
the return level and the return is gone (R72). -/
def Line.takeTick (l : Line) : Line :=
  match l.pending with
  | none => l
  | some r =>
    if r.remaining ≤ 1 then { l with level := r.level, pending := none }
    else { l with pending := some { r with remaining := r.remaining - 1 } }

/-- The Dispatch Unit takes a tick, on all lines together (R71, R72). -/
def DispatchUnit.takeTick (d : DispatchUnit) : DispatchUnit := { d with lines := d.lines.map Line.takeTick }

/-- The Dispatch Unit takes a tick that is still on its way to it (R71, log 5). -/
def DispatchUnit.settle (d : DispatchUnit) : DispatchUnit :=
  if d.tickOwed then { d.takeTick with tickOwed := false } else d

/-! ## What a receiver hears in the cross-loop (R111, log 18) -/

/-- What a line has carried since a fall, with what its transmitter has just begun (R97, R98): new bits that follow the others
without a break, mark that the line rests at, or something that begins after a rest. -/
def LoopHeard.goesOn (h : LoopHeard) (c : SerialChannel) : LoopHeard :=
  match h.after with
  | .carries _ =>
    if c.tx.out = .mark then { h with after := .rest }
    else { h with bits := h.bits ++ c.lineBits, after := .carries h.bits.length }
  | .rest | .unknown => if c.tx.out = .mark then h else { h with after := .unknown }

/-- The bits of 1 with which some bits end. -/
def endingOnes (bits : List Bool) : Nat := (bits.reverse.takeWhile id).length

/-- How long bits of a length `unit` are at 1 between two moments since the first of them began. -/
def onesBetween (bits : List Bool) (unit start stop : Nat) : Nat :=
  ((List.range bits.length).map fun j =>
    if bits.getD j false then min ((j + 1) * unit) stop - max (j * unit) start else 0).sum

/-- The bits of 1 with which a line ends after `bits`, with those before them where it has carried nothing else; absent where they
reach back to a rest. -/
def LinePlace.onesTo (p : LinePlace) (bits : List Bool) : Option Nat :=
  let ones := endingOnes bits
  if ones = bits.length then p.before.map (· + ones) else some ones

/-- The place of a receiver on a line whose transmitter begins something: at its beginning, behind what the line carried.
`inChar`: a character is in hand, and no mark counts for the gap (R123). -/
def LinePlace.after (c : SerialChannel) (inChar : Bool) (p : LinePlace) : LinePlace :=
  let unit := 2 * c.config.divisor
  let length := c.lineBits.length * unit
  if c.tx.out = .mark then { before := none, whole := p.whole, heard := 0, mark := none, counted := 0, tracked := true }
  else
    { before := p.onesTo c.lineBits
      whole := p.whole
      heard := 0
      mark := if inChar then p.mark else p.mark.map (· + onesBetween c.lineBits unit p.counted length)
      counted := p.counted - length
      tracked := true }

/-- The receiver that hears a line, as its transmitter begins something with which `c` becomes `next`: what the line carries since
the fall of the low in hand, and since the fall of the start bit in hand, goes on, and the receiver stands at its beginning. -/
def Receiver.hearsOn (c next : SerialChannel) (r : Receiver) : Receiver :=
  { r with
    lowWatch := r.lowWatch.map fun low => { low with looped := low.looped.map (·.goesOn next) }
    looped := if r.state = .inChar then r.looped.map (·.goesOn next) else r.looped
    place := r.place.after c (r.state == .inChar) }

/-- A transmitter begins something on its line: a character, a character time of a break, a lead, or mark. With the cross-loop on,
the other channel's receiver hears it (R111). -/
def putOnLine (ch : Channel) (t : Transmitter) (s : State) : State :=
  if s.ser.loop then
    (s.withTx ch t).withRx (otherChannel ch)
      ((s.rx (otherChannel ch)).hearsOn (s.chan ch) { s.chan ch with tx := t })
  else s.withTx ch t

/-! ## Transmit queues (R99 to R107) -/

/-- The byte of a message at an index, as the transmitter reads it (R92). -/
def messageByte (mm : MessageMemory) (m : Fin 32) (i : Nat) : Byte := storeByte mm (mm.directory[m].offset + i)

/-- Start the head request, with a lead or without (R98, R103); with an empty queue the transmitter is IDLE. -/
def Transmitter.startHead (mm : MessageMemory) (lead : Bool) (t : Transmitter) : Transmitter :=
  match t.queue with
  | [] => { t with state := .idle, out := .mark, byteIndex := 0, breakRemaining := 0, elapsed := 0 }
  | .send m _ _ :: _ =>
    { t with state := .sending, out := if lead then .lead else .char (messageByte mm m 0),
             byteIndex := 0, breakRemaining := 0, elapsed := 0 }
  | .brk n :: _ =>
    { t with state := .breaking, out := if lead then .lead else .low,
             byteIndex := 0, breakRemaining := n, elapsed := 0 }

/-- A request joins the tail; on an empty queue the transmitter starts it in the same event (R100, R103). -/
def joinQueue (ch : Channel) (r : Request) (s : State) : State :=
  let t := s.tx ch
  if t.queue.isEmpty then putOnLine ch (Transmitter.startHead s.mm false { t with queue := [r] }) s
  else s.withTx ch { t with queue := t.queue ++ [r] }

/-- Why a queue refuses a request of either kind (R100): the transmitter is off, or the queue is full. -/
def queueRefusal (s : State) (ch : Channel) : Option RefuseReason :=
  if (s.chan ch).config.txEnable then
    if Config.queueDepth ≤ (s.tx ch).queue.length then some .queueFull else none
  else some .channelOff

/-- Why a SEND request is refused: NO_MESSAGE is judged first, then the queue (R52, R85, R100). -/
def sendRefusal (s : State) (ch : Channel) (m : Fin 32) : Option RefuseReason :=
  if s.mm.directory[m].defined then queueRefusal s ch else some .noMessage

/-- An accepted SEND joins its queue and its message's busy count rises, in one event (R85, R100). -/
def joinSend (ch : Channel) (m : Fin 32) (source : Source) (notify : Bool) (s : State) : State :=
  { joinQueue ch (.send m source notify) s with mm := claimMessage m s.mm }

/-- An accepted BREAK joins its queue (R102). -/
def joinBreak (ch : Channel) (length : Nat) (s : State) : State := joinQueue ch (.brk length) s

/-- The request at the head of a queue is a BREAK. -/
def Request.isBreak : Request → Bool
  | .brk _ => true
  | .send _ _ _ => false

/-- A SEND leaves a queue: its busy count falls (R86), and its notice is posted where it asks for one; a BREAK leaves without
either (R106, R107). `body` makes the notice. -/
def requestLeaves (r : Request) (body : Fin 32 → Source → NoticeBody) (s : State) : State :=
  match r with
  | .send m source notify => postIf notify (body m source) { s with mm := releaseMessage m s.mm }
  | .brk _ => s

/-- The head leaves its queue and the next request starts, in one event; it starts with a lead when the head that left was a
BREAK (R98, R105, R106, R107). -/
def headLeaves (ch : Channel) (body : Fin 32 → Source → NoticeBody) (s : State) : State :=
  match (s.tx ch).queue with
  | [] => s
  | r :: rest =>
    let s := requestLeaves r body (s.withTx ch { s.tx ch with queue := rest })
    putOnLine ch (Transmitter.startHead s.mm r.isBreak (s.tx ch)) s

/-- A transmitter's elapsed-tick count takes a tick, saturating (R103). -/
def Transmitter.takeTick (t : Transmitter) : Transmitter :=
  if t.queue.isEmpty then t else { t with elapsed := min (t.elapsed + 1) 65535 }

/-- A transmitter takes a tick that is still on its way to it (R103, log 5). -/
def Transmitter.settle (t : Transmitter) : Transmitter :=
  if t.tickOwed then { t.takeTick with tickOwed := false } else t

/-! ## A tick on its way to a block (R71, R103; log 5) -/

/-- An occurrence is due (R48). -/
def State.occurrenceDue (s : State) : Bool :=
  s.mainAlive && decide (s.tb.run = .running)
    && s.au.dueList.head?.any fun i => decide (s.au.slots[i].entry.due ≤ s.tb.count)

/-- A tick may be on its way to a block beyond this event: an occurrence that is due is taken next, whose actions it can come
together with (R71, R103), or the row PULSE_END that takes it is next (log 6). -/
def State.tickMayWait (s : State) : Bool :=
  match s.pending.head? with
  | some .occurrence => s.occurrenceDue
  | some .pulseEnd => true
  | _ => false

/-- Every tick that is on its way reaches its block, unless it may be on its way still. -/
def bringTicks (s : State) : State :=
  if s.tickMayWait then s
  else { (s.withTx .a (s.tx .a).settle).withTx .b (s.tx .b).settle with du := s.du.settle }

/-! ## Arming (R39, R40, R43) -/

/-- Slot `i` stands before slot `j` on the due list: by due time, then by slot number (R39). -/
def dueBefore (slots : Vector Slot 64) (i j : Fin 64) : Bool :=
  decide (slots[i].entry.due < slots[j].entry.due) || (slots[i].entry.due == slots[j].entry.due && decide (i < j))

/-- A slot's place on the due list (R40). -/
def dueInsert (slots : Vector Slot 64) (i : Fin 64) : List (Fin 64) → List (Fin 64)
  | [] => [i]
  | j :: rest => if dueBefore slots i j then i :: j :: rest else j :: dueInsert slots i rest

/-- Arm a slot at a due time: the state and the due field change and nothing else in the record (R43). -/
def armSlot (i : Fin 64) (due : Nat) (au : Agenda) : Agenda :=
  let slots := au.slots.set i { state := .armed, entry := { au.slots[i].entry with due := due } }
  { au with slots := slots, dueList := dueInsert slots i au.dueList }

/-! ## Capture records (R133 to R142) -/

/-- A record slot is free: open and closed records together are fewer than 32 (R135). -/
def Capture.slotFree (cu : Capture) : Bool :=
  decide (cu.opened.a.toList.length + cu.opened.b.toList.length + cu.queue.length < Config.captureSlots)

/-- No flag. -/
def RecordFlags.clear : RecordFlags := { parity := false, framing := false, brk := false, truncated := false }

/-- The place after the newest held byte (R137). -/
def Ring.freeEnd (r : Ring) : Nat := (r.start + r.held.length) % Config.ringSize

/-- A record as reserved: its source and stamp, nothing stored (R135). -/
def freshRecord (source : CaptureSource) (stamp : Stamp) (place : Nat) : CaptureRecord where
  source := source
  stamp := stamp
  length := 0
  flags := .clear
  endCause := none
  matched := []
  place := place

/-- A refused frame or break reservation: the channel's dropped count rises, saturating, and CAPTURE_LOST is set (R136). -/
def dropFrame (ch : Channel) (s : State) : State :=
  setFault .captureLost { s with cu.dropped := s.cu.dropped.set ch (min (s.cu.dropped.get ch + 1) 255) }

/-- A refused edge offer (R136). -/
def dropEdge (s : State) : State :=
  setFault .captureLost { s with cu.droppedEv := min (s.cu.droppedEv + 1) 255 }

/-- The byte a ring holds at a place. -/
def Ring.byteAt (r : Ring) (place : Nat) : Byte :=
  r.held.getD ((place + Config.ringSize - r.start) % Config.ringSize) 0

/-- The bytes of a record, from its place in its channel's ring (R133, R145). -/
def Capture.recordByte (cu : Capture) (r : CaptureRecord) (i : Nat) : Byte :=
  match r.source with
  | .frame ch => (cu.rings.get ch).byteAt ((r.place + i) % Config.ringSize)
  | .edge _ _ => 0

/-- Free bytes from the oldest end of a ring (R137). -/
def Ring.freeOldest (r : Ring) (n : Nat) : Ring :=
  { start := (r.start + min n r.held.length) % Config.ringSize, held := r.held.drop n }

/-- Free bytes from the newest end of a ring (R137). -/
def Ring.freeNewest (r : Ring) (n : Nat) : Ring := { r with held := r.held.take (r.held.length - n) }

/-- A byte of an open frame (R138): stored while the frame is not TRUNCATED and the ring has room, else discarded with
TRUNCATED set. -/
def storeFrameByte (ch : Channel) (b : Byte) (cu : Capture) : Capture :=
  match cu.opened.get ch with
  | none => cu
  | some r =>
    if !r.flags.truncated && decide ((cu.rings.get ch).held.length < Config.ringSize) then
      { cu with
        rings := cu.rings.set ch { cu.rings.get ch with held := (cu.rings.get ch).held ++ [b] }
        opened := cu.opened.set ch (some { r with length := r.length + 1 }) }
    else
      { cu with opened := cu.opened.set ch (some { r with flags.truncated := true }) }

/-! ## Trigger evaluation (R154 to R160) -/

/-- The eight rules in order. -/
def allRules : List (Fin 8) := [0, 1, 2, 3, 4, 5, 6, 7]

/-- A request of the rule stands in the answer list and is current (R158). -/
def currentRequest (tu : Triggers) (k : Fin 8) : Bool :=
  tu.answers.any fun g => g.any fun q => q.rule == k && q.current

/-- The rule's source is the record's (R154). -/
def sourceMatches (source : TriggerSource) (record : CaptureSource) : Bool :=
  match source, record with
  | .frame ch, .frame ch' => ch == ch'
  | .edge n d, .edge n' d' => n == n' && d == d'
  | _, _ => false

/-- A FRAME record is undamaged and begins with the rule's prefix bytes as stored (R154). -/
def prefixMatches (cu : Capture) (bytes : List Byte) (r : CaptureRecord) : Bool :=
  match r.source with
  | .edge _ _ => true
  | .frame _ =>
    r.flags == RecordFlags.clear
      && decide (bytes.length ≤ r.length)
      && (List.range bytes.length).all fun i => cu.recordByte r i == bytes.getD i 0

/-- A rule matches a record (R154). -/
def ruleMatches (s : State) (r : CaptureRecord) (k : Fin 8) : Bool :=
  s.tu.rules[k].enabled
    && !(s.tu.rules[k].oneShot && currentRequest s.tu k)
    && sourceMatches s.tu.rules[k].source r.source
    && prefixMatches s.cu s.tu.rules[k].prefixBytes r

/-- A miss of a rule (R160): the miss flag is set, except for a detached request, ACTION_REFUSED is set, and a TRIGGER_MISS
notice is posted. -/
def triggerMiss (k : Fin 8) (slot : Fin 64) (reason : MissReason) (current : Bool) (s : State) : State :=
  let s := if current then { s with tu.rules := s.tu.rules.set k { s.tu.rules[k] with miss := true } } else s
  post (.triggerMiss k slot reason) (setFault .actionRefused s)

/-- What the Trigger Unit makes of one matching rule at the close (R156): a miss, or an arm request added to the group. -/
def judgeRule (r : CaptureRecord) (acc : State × List ArmRequest) (k : Fin 8) : State × List ArmRequest :=
  let s := acc.1
  let rule := s.tu.rules[k]
  let due := r.stamp.count + rule.delay
  if r.stamp.generation ≠ s.tb.generation then (triggerMiss k rule.target .staleTime true s, acc.2)
  else if Config.endTime < due then (triggerMiss k rule.target .outOfRange true s, acc.2)
  else (s, acc.2 ++ [{ rule := k, slot := rule.target, due := due, current := true }])

/-- The close of a record (R139, R140): the Trigger Unit writes the matched rules and judges them (R155, R156), its requests
leave as one group (R157, R158), and the record joins the tail of the capture queue. -/
def closeRecord (r : CaptureRecord) (s : State) : State :=
  let matched := allRules.filter (ruleMatches s r)
  let judged := matched.foldl (judgeRule r) (s, [])
  let s := judged.1
  { s with
    tu.answers := if judged.2.isEmpty then s.tu.answers else s.tu.answers ++ [judged.2]
    cu.queue := s.cu.queue ++ [{ r with matched := matched }] }

/-! ## Resets -/

/-- The main domain at its reset values, with the Message Memory as given (R38, R79, R113, R132, R148, R163, R179, R193). -/
def resetMain (mm : MessageMemory) (s : State) : State :=
  { s with biu := .reset, au := .reset, du := .reset, mm := mm, ser := .reset, evi := .reset, cu := .reset,
           tu := .reset, niu := .reset }

/-- RESET_N and SOFT_RESET keep the store and the descriptors, with every busy count 0 (R93, R192). -/
def MessageMemory.kept (mm : MessageMemory) : MessageMemory :=
  { MessageMemory.lost mm.epoch with
    store := mm.store, directory := mm.directory.map fun d => { d with busy := 0 } }

/-- RESET_N held low, and SOFT_RESET (R192). -/
def resetKeepingStore (s : State) : State := resetMain s.mm.kept s

/-- The main domain has been without power: the store has lost its contents too (R93). -/
def resetLosingStore (s : State) : State := resetMain (MessageMemory.lost (s.mm.epoch + 1)) s

end Sys2Proof.Machine
end

