-- ==== Sys2Proof/Machine/Agenda.lean ====
section
/-! DEFINITION. The Agenda Unit: the seven agenda commands and their completion (R27 to R47), occurrences (R48 to R60) and the
arm requests of the Trigger Unit (R61, R62, R159). -/

namespace Sys2Proof.Machine

/-! ## Acceptance of the agenda commands (R27) -/

/-- ENTRY_LOAD, accepted now and decided at its completion (R27, R30). -/
def execEntryLoad (s : State) : Answer := .next (acceptAgenda .load s)

/-- ENTRY_READ (R27, R32). -/
def execEntryRead (s : State) : Answer := .next (acceptAgenda .read s)

/-- ENTRY_RELEASE (R27, R34). -/
def execEntryRelease (s : State) : Answer := .next (acceptAgenda .release s)

/-- ENTRY_ARM_AT (R27, R41). -/
def execEntryArmAt (s : State) : Answer := .next (acceptAgenda .armAt s)

/-- ENTRY_ARM_IN (R27, R42). -/
def execEntryArmIn (s : State) : Answer := .next (acceptAgenda .armIn s)

/-- ENTRY_DISARM (R27, R44). -/
def execEntryDisarm (s : State) : Answer := .next (acceptAgenda .disarm s)

/-- AGENDA_CLEAR (R27, R36). -/
def execAgendaClear (s : State) : Answer := .next (acceptAgenda .clear s)

/-! ## Completion -/

/-- Replace a slot that is not on the due list. -/
def putSlot (i : Fin 64) (x : Slot) (au : Agenda) : Agenda := { au with slots := au.slots.set i x }

/-- ENTRY_LOAD at completion: the checks of R29 in order, then the load of R30. -/
def decideLoad (i : Fin 64) (st : Vector Byte 28) (au : Agenda) : Agenda × ResultCode :=
  if stagedValue st 6 4 = 0 ∧ stagedValue st 10 2 ≠ 0 then (au, .badArg)
  else
    match optionalIndex 32 (stagedByte st 18), optionalIndex 64 (stagedByte st 21) with
    | some message, some chain =>
      if chain = some i then (au, .badArg)
      else if Config.endTime < stagedDue st then (au, .outOfRange)
      else if au.slots[i].state = .armed then (au, .badState)
      else (putSlot i { state := .held, entry := stagedEntry st message chain } au, .ok)
    | _, _ => (au, .badArg)

/-- ENTRY_RELEASE at completion (R34). -/
def decideRelease (i : Fin 64) (au : Agenda) : Agenda × ResultCode :=
  if au.slots[i].state = .armed then (au, .badState) else (putSlot i Slot.freed au, .ok)

/-- ENTRY_ARM_AT at completion (R41). -/
def decideArmAt (i : Fin 64) (au : Agenda) : Agenda × ResultCode :=
  if au.slots[i].state = .held then (armSlot i au.slots[i].entry.due au, .ok) else (au, .badState)

/-- ENTRY_ARM_IN at completion, with the time count standing then (R42). -/
def decideArmIn (i : Fin 64) (st : Vector Byte 28) (count : Nat) (au : Agenda) : Agenda × ResultCode :=
  if au.slots[i].state = .held then
    if Config.endTime < count + stagedArmIn st then (au, .outOfRange)
    else (armSlot i (count + stagedArmIn st) au, .ok)
  else (au, .badState)

/-- ENTRY_DISARM at completion (R44). -/
def decideDisarm (i : Fin 64) (au : Agenda) : Agenda × ResultCode :=
  if au.slots[i].state = .armed then
    ({ putSlot i { au.slots[i] with state := .held } au with dueList := au.dueList.filter fun j => j != i }, .ok)
  else (au, .badState)

/-- The decision of an agenda command at its completion (R27). A slot number of 64 to 255 is BAD_ARG before every other check
(R28); AGENDA_CLEAR names no slot (R36). -/
def decideAgenda (f : InFlight) (count : Nat) (au : Agenda) : Agenda × ResultCode :=
  match f.command with
  | .clear => ({ au with slots := Vector.replicate 64 Slot.freed, dueList := [] }, .ok)
  | command =>
    match slotOfArg f.arg with
    | none => (au, .badArg)
    | some i =>
      match command with
      | .load => decideLoad i f.staging au
      | .read => ({ au with window := { slot := i, image := au.slots[i] } }, .ok)
      | .release => decideRelease i au
      | .armAt => decideArmAt i au
      | .armIn => decideArmIn i f.staging count au
      | .disarm | .clear => decideDisarm i au

/-- The completion of the command in flight: effect, RESULT, CMD_DONE and IDLE in one event (R27, R188). -/
def completeAgenda (s : State) : State :=
  match s.au.inFlight with
  | none => s
  | some f =>
    let d := decideAgenda f s.tb.count s.au
    complete ({ s with au := { d.1 with inFlight := none } }, d.2)

/-- AGENDA_COMMAND_COMPLETION (R27). -/
def execAgendaCommandCompletion (s : State) : Answer := .next (whenMain s completeAgenda)

/-! ## Occurrences -/

/-- The SEND request of a performed occurrence (R52): joined, or refused with a reason and ACTION_REFUSED. -/
def occurrenceSend (i : Fin 64) (e : Entry) (s : State) : State × Option RefuseReason :=
  match e.message with
  | none => (s, none)
  | some m =>
    match sendRefusal s e.channel m with
    | none => (joinSend e.channel m (.slot i) e.notify.onTxEnd s, none)
    | some reason => (setFault .actionRefused s, some reason)

/-- The chain arm of a performed occurrence (R53); the answer says whether it was refused. -/
def occurrenceChain (e : Entry) (s : State) : State × Bool :=
  match e.chainTarget with
  | none => (s, false)
  | some t =>
    if s.au.slots[t].state = .held ∧ e.due + e.chainDelay ≤ Config.endTime then
      ({ s with au := armSlot t (e.due + e.chainDelay) s.au }, false)
    else (setFault .actionRefused s, true)

/-- The advance (R56, R57): what becomes of an entry that has consumed `consumed` occurrences and whose next due time would
be `next`; the reason is present where the entry ends. -/
def advance (e : Entry) (consumed next : Nat) : Entry × Option SpentReason :=
  if e.period = 0 then (e, some .oneShot)
  else if e.repeats ≠ 0 ∧ e.remaining ≤ consumed then ({ e with remaining := 0 }, some .repeatDone)
  else
    let e := if e.repeats = 0 then e else { e with remaining := e.remaining - consumed }
    if next ≤ Config.endTime then ({ e with due := next }, none) else (e, some .endOfRange)

/-- The end of an occurrence: the slot takes its advanced entry, rejoins the due list or is SPENT with its notice (R56 to
R58). -/
def settleOccurrence (i : Fin 64) (onSpent : Bool) (a : Entry × Option SpentReason) (s : State) : State :=
  match a.2 with
  | none =>
    { s with au := armSlot i a.1.due { s.au with slots := s.au.slots.set i { state := .armed, entry := a.1 } } }
  | some reason =>
    postIf onSpent (.spent i reason)
      { s with au := putSlot i { state := .spent, entry := { a.1 with spent := some reason } } s.au }

/-- The last occurrence record (R59). -/
def lastRecord (e : Entry) (s : State) (outcome : OccurrenceOutcome) : LastOccurrence where
  due := e.due
  lateness := min (s.tb.count - e.due) 65535
  generation := s.tb.generation
  outcome := outcome

/-- A performed occurrence of slot `i` (R51 to R54, R60), with the slot already off the due list. -/
def performOccurrence (i : Fin 64) (e : Entry) (s : State) : State :=
  let lined :=
    if e.setMask = 0 ∧ e.clearMask = 0 then s
    else { s with du := lineAction e.setMask e.clearMask e.pulseWidth (.slot i) s.du }
  let sent := occurrenceSend i e lined
  let chained := occurrenceChain e sent.1
  let posted := postIf e.notify.onFire (.fired i (min (s.tb.count - e.due) 65535) sent.2 chained.2) chained.1
  let e' := { e with fired := min (e.fired + 1) 65535, last := some (lastRecord e s (.performed sent.2 chained.2)) }
  settleOccurrence i e.notify.onSpent (advance e' 1 (e.due + e.period)) posted

/-- How many occurrences a miss consumes (R55). -/
def missConsumes (e : Entry) (lateness : Nat) : Nat := if e.period = 0 then 1 else lateness / e.period + 1

/-- A missed occurrence of slot `i` (R55), with the slot already off the due list. -/
def missOccurrence (i : Fin 64) (e : Entry) (s : State) : State :=
  let k := missConsumes e (s.tb.count - e.due)
  let posted := postIf e.notify.onMiss (.missed i (min k 65535)) s
  let e' := { e with missed := min (e.missed + k) 65535, last := some (lastRecord e s .missed) }
  settleOccurrence i e.notify.onSpent (advance e' k (e.due + k * e.period)) posted

/-- The taking of the occurrence of the head slot (R50): performed within its tolerance, missed beyond it. -/
def takeOccurrence (i : Fin 64) (rest : List (Fin 64)) (s : State) : State :=
  let e := s.au.slots[i].entry
  let s := { s with au.dueList := rest }
  if s.tb.count - e.due ≤ e.tolerance then performOccurrence i e s else missOccurrence i e s

/-- OCCURRENCE (R48 to R50): with the Time Base RUNNING and the head due at or below the count, the head is taken. In any other
state no occurrence is taken and nothing changes. A tick that its actions have come before at a block (R71, R103) reaches that
block in this event, unless a further occurrence, or the row PULSE_END, follows at once (log 5). -/
def execOccurrence (s : State) : Answer :=
  .next <| whenMain s fun s =>
    match s.au.dueList with
    | [] => s
    | i :: rest =>
      if s.tb.run = .running ∧ s.au.slots[i].entry.due ≤ s.tb.count then bringTicks (takeOccurrence i rest s) else s

/-! ## Arm requests (R61, R62, R159) -/

/-- One arm request: the slot is armed where it is HELD (R61), and the Trigger Unit acts on the answer (R159). -/
def takeArmRequest (s : State) (q : ArmRequest) : State :=
  if s.au.slots[q.slot].state = .held then
    let s := { s with au := armSlot q.slot q.due s.au }
    if q.current && s.tu.rules[q.rule].oneShot then
      { s with tu.rules := s.tu.rules.set q.rule { s.tu.rules[q.rule] with enabled := false } }
    else s
  else triggerMiss q.rule q.slot .notHeld q.current s

/-- ARM_REQUEST_GROUP (R62, R158): the group at the head of the answer list is taken whole, in request order. -/
def execArmRequestGroup (s : State) : Answer :=
  .next <| whenMain s fun s =>
    match s.tu.answers with
    | [] => s
    | group :: rest => group.foldl takeArmRequest { s with tu.answers := rest }

end Sys2Proof.Machine
end

