-- ==== Sys2Proof/Machine/Window.lean ====
section
/-! DEFINITION. What the host reads: the common region and the read sides of the eight pages, byte for byte (R194, R196), and
the read cycles with side effects (R181 to R183). -/

namespace Sys2Proof.Machine

/-! ## Codes (R194, R191, R196) -/

def ResultCode.code : ResultCode → Byte
  | .ok => 0x00
  | .badCommand => 0x01
  | .badArg => 0x02
  | .badState => 0x03
  | .locked => 0x04
  | .full => 0x05
  | .empty => 0x06
  | .outOfRange => 0x07
  | .badDate => 0x08
  | .reset => 0xFF

def Source.code : Source → Byte
  | .slot i => BitVec.ofNat 8 i.val
  | .host => 64
  | .reset => 65

def channelCode : Channel → Byte
  | .a => 0
  | .b => 1

def SlotState.code : SlotState → Byte
  | .free => 0
  | .held => 1
  | .armed => 2
  | .spent => 3

def RefuseReason.code : RefuseReason → Byte
  | .noMessage => 1
  | .queueFull => 2
  | .channelOff => 3

def SpentReason.code : SpentReason → Byte
  | .oneShot => 1
  | .repeatDone => 2
  | .endOfRange => 3

/-- Occurrence flags: bit 0 TX_REFUSED, bit 1 CHAIN_REFUSED, bits 2 and 3 the reason (R194). -/
def occurrenceFlags (txRefused : Option RefuseReason) (chainRefused : Bool) : Byte :=
  bitByte txRefused.isSome ||| (bitByte chainRefused <<< 1) ||| ((txRefused.elim 0 RefuseReason.code) <<< 2)

/-- An optional index as a byte, 255 for none (R194). -/
def optionalByte {n : Nat} (x : Option (Fin n)) : Byte := x.elim 255 fun i => BitVec.ofNat 8 i.val

def Notify.byte (n : Notify) : Byte :=
  bitByte n.onFire ||| (bitByte n.onMiss <<< 1) ||| (bitByte n.onSpent <<< 2) ||| (bitByte n.onTxEnd <<< 3)

/-- Bit n of the byte is the n-th flag. -/
def flagsByte : List Bool → Byte
  | [] => 0
  | b :: rest => bitByte b ||| (flagsByte rest <<< 1)

/-! ## Page 0, ENTRY -/

/-- The last occurrence as the window shows it, all 0 where it is absent (R24, R196). -/
def lastBytes : Option LastOccurrence → List Byte
  | none => List.replicate 12 0
  | some o =>
    [1] ++ leBytes 6 o.due ++ leBytes 2 o.lateness
      ++ (match o.outcome with
          | .performed tx chain => [1, occurrenceFlags tx chain]
          | .missed => [2, 0])
      ++ [o.generation]

/-- The result window, from location 0x10. -/
def entryPage (w : ResultWindow) : List Byte :=
  let e := w.image.entry
  [BitVec.ofNat 8 w.slot.val, w.image.state.code] ++ leBytes 6 e.due ++ leBytes 4 e.period ++ leBytes 2 e.repeats
    ++ leBytes 2 e.remaining ++ leBytes 2 e.tolerance ++ [e.setMask, e.clearMask] ++ leBytes 2 e.pulseWidth
    ++ [optionalByte e.message, channelCode e.channel, e.notify.byte, optionalByte e.chainTarget]
    ++ leBytes 2 e.chainDelay ++ leBytes 2 e.fired ++ leBytes 2 e.missed ++ lastBytes e.last
    ++ [e.spent.elim 0 SpentReason.code]

/-! ## Page 1, TIME -/

/-- The snapshot latch, from location 0x10. -/
def timePage (l : Latch) : List Byte :=
  leBytes 6 l.stamp.count ++ [l.stamp.generation, bitByte (decide (l.run = .running))] ++ leBytes 2 l.date.year
    ++ [BitVec.ofNat 8 l.date.month, BitVec.ofNat 8 l.date.day, BitVec.ofNat 8 l.weekday, BitVec.ofNat 8 l.date.hour,
        BitVec.ofNat 8 l.date.minute, BitVec.ofNat 8 l.date.second]
    ++ leBytes 2 l.date.fraction

/-! ## Page 2, CHANNEL -/

def DataBits.code : DataBits → Byte
  | .seven => 7
  | .eight => 8

def Parity.code : Parity → Byte
  | .none => 0
  | .even => 1
  | .odd => 2

def StopBits.code : StopBits → Byte
  | .one => 1
  | .two => 2

def TxState.code : TxState → Byte
  | .idle => 0
  | .sending => 1
  | .breaking => 2
  | .stopping => 3

def RxState.code : RxState → Byte
  | .idle => 0
  | .inFrame => 1
  | .inChar => 2
  | .brk => 3

def FramePart.code : FramePart → Byte
  | .none => 0
  | .opened => 1
  | .dropped => 2

/-- The head fields, 0x1A to 0x22 (R112): for a BREAK the source reads HOST and message, notify and byte index 0; for a SEND
the BREAK length and character times remaining read 0; for an empty queue all read 0. -/
def headBytes (h : HeadCopy) : List Byte :=
  match h.request with
  | none => List.replicate 9 0
  | some (.send m src notify) =>
    [1, BitVec.ofNat 8 m.val, src.code, bitByte notify, BitVec.ofNat 8 h.byteIndex, 0, 0] ++ leBytes 2 h.elapsed
  | some (.brk n) =>
    [2, 0, Source.host.code, 0, 0, BitVec.ofNat 8 n, BitVec.ofNat 8 h.breakRemaining] ++ leBytes 2 h.elapsed

/-- The channel copy, from location 0x10. -/
def channelPage (c : ChannelCopy) : List Byte :=
  [channelCode c.channel] ++ leBytes 2 c.config.divisor
    ++ [c.config.dataBits.code, c.config.parity.code, c.config.stopBits.code,
        flagsByte [c.config.txEnable, c.config.rxEnable], bitByte c.loop, c.txState.code, BitVec.ofNat 8 c.queued]
    ++ headBytes c.head ++ [c.rxState.code, c.frame.code] ++ leBytes 2 c.chars
    ++ [flagsByte [c.flags.parity, c.flags.framing], BitVec.ofNat 8 c.gap, bitByte c.markQualified,
        BitVec.ofNat 8 c.rules.gap, bitByte c.rules.terminator.isSome, c.rules.terminator.getD 0]
    ++ leBytes 2 c.rules.maxLength
    ++ [c.rising.setWidth 8 ||| (c.falling.setWidth 8 <<< 4),
        flagsByte (c.samples.toList.map fun x => x.getD false)
          ||| (flagsByte (c.samples.toList.map Option.isSome) <<< 4)]

/-! ## Page 3, MESSAGE -/

/-- The descriptor copy, from location 0x10. -/
def messagePage (c : DescriptorCopy) : List Byte :=
  [BitVec.ofNat 8 c.message.val, bitByte c.descriptor.defined] ++ leBytes 2 c.descriptor.offset
    ++ leBytes 2 c.descriptor.length ++ [BitVec.ofNat 8 c.descriptor.busy]

/-! ## Page 4, TRIGGER -/

def EdgeDir.bit : EdgeDir → Nat
  | .rising => 0
  | .falling => 1

def TriggerSource.code : TriggerSource → Byte
  | .frame ch => channelCode ch
  | .edge n d => BitVec.ofNat 8 (2 + 2 * n.val + d.bit)

/-- The rule copy, from location 0x10; prefix bytes beyond the length read 0 (R151). -/
def triggerPage (c : RuleCopy) : List Byte :=
  [BitVec.ofNat 8 c.number.val, bitByte c.rule.enabled, c.rule.source.code, BitVec.ofNat 8 c.rule.prefixBytes.length]
    ++ (c.rule.prefixBytes ++ List.replicate 4 0).take 4
    ++ [BitVec.ofNat 8 c.rule.target.val] ++ leBytes 2 c.rule.delay ++ [bitByte c.rule.oneShot, bitByte c.rule.miss]

/-! ## Page 5, CAPTURE -/

def EndCause.code : EndCause → Byte
  | .gap => 1
  | .terminator => 2
  | .maxLength => 3
  | .brk => 4

/-- Kind, source code and direction of a capture record (R196). -/
def CaptureSource.codes : CaptureSource → Byte × Byte × Byte
  | .frame ch => (1, channelCode ch, 0)
  | .edge n d => (2, BitVec.ofNat 8 (2 + n.val), BitVec.ofNat 8 (1 + d.bit))

/-- The read window, from location 0x10; all 0 with no record present (R144). -/
def capturePage : Option CaptureRecord → List Byte
  | none => List.replicate 16 0
  | some r =>
    [1, r.source.codes.1, r.source.codes.2.1] ++ leBytes 6 r.stamp.count ++ [r.stamp.generation]
      ++ leBytes 2 r.length
      ++ [flagsByte [r.flags.parity, r.flags.framing, r.flags.brk, r.flags.truncated],
          r.endCause.elim 0 EndCause.code, r.source.codes.2.2,
          flagsByte (allRules.map fun k => r.matched.contains k)]

/-! ## Page 6, NOTICE -/

def MissReason.code : MissReason → Byte
  | .staleTime => 1
  | .outOfRange => 2
  | .notHeld => 3

/-- Kind, slot, channel, message, source and rule of a notice (locations 0x10 to 0x15). -/
def NoticeBody.subject : NoticeBody → List Byte
  | .fired i _ _ _ => [1, BitVec.ofNat 8 i.val, 0, 0, 0, 0]
  | .missed i _ => [2, BitVec.ofNat 8 i.val, 0, 0, 0, 0]
  | .spent i _ => [3, BitVec.ofNat 8 i.val, 0, 0, 0, 0]
  | .txDone ch m src _ => [4, 0, channelCode ch, BitVec.ofNat 8 m.val, src.code, 0]
  | .txAborted ch m src _ => [5, 0, channelCode ch, BitVec.ofNat 8 m.val, src.code, 0]
  | .triggerMiss k i _ => [6, BitVec.ofNat 8 i.val, 0, 0, 0, BitVec.ofNat 8 k.val]

/-- The value of a notice (R164, R196). -/
def NoticeBody.value : NoticeBody → Nat
  | .fired _ lateness _ _ => lateness
  | .missed _ consumed => consumed
  | .spent _ reason => reason.code.toNat
  | .txDone _ _ _ duration => duration
  | .txAborted _ _ _ bytesSent => bytesSent
  | .triggerMiss _ _ reason => reason.code.toNat

/-- The occurrence flags of a notice. -/
def NoticeBody.flags : NoticeBody → Byte
  | .fired _ _ tx chain => occurrenceFlags tx chain
  | .missed _ _ | .spent _ _ | .txDone _ _ _ _ | .txAborted _ _ _ _ | .triggerMiss _ _ _ => 0

/-- The notice copy, from location 0x10; kind none reads all 0 (R169). -/
def noticePage : Option Notice → List Byte
  | none => List.replicate 16 0
  | some n =>
    n.body.subject ++ leBytes 6 n.stamp.count ++ [n.stamp.generation] ++ leBytes 2 n.body.value ++ [n.body.flags]

/-! ## Page 7, LINES -/

/-- The line copy, from location 0x10 (R78): a line with no pending return shows level and ticks 0. -/
def linesPage (lines : Vector Line 8) : List Byte :=
  let ls := lines.toList
  [flagsByte (ls.map Line.level), flagsByte (ls.map Line.driven), flagsByte (ls.map fun l => l.pending.isSome),
   flagsByte (ls.map fun l => l.pending.elim false PendingReturn.level)]
    ++ ls.flatMap (fun l => leBytes 2 (l.pending.elim 0 PendingReturn.remaining))
    ++ ls.map fun l => l.source.code

/-! ## Locations -/

/-- LINE_LEVEL (R77). -/
def State.lineLevel (s : State) : Byte := flagsByte (s.du.lines.toList.map Line.level)

/-- The count at 0x0F, chosen by the two low bits of ARG (R136). -/
def State.chosenCount (s : State) : Nat :=
  match s.biu.arg.toNat % 4 with
  | 0 => s.niu.lost
  | 1 => s.cu.dropped.a
  | 2 => s.cu.dropped.b
  | _ => s.cu.droppedEv

/-- The byte that CAP_DATA drives (R145): 0 past the record's end, and with no record in the window. -/
def State.capData (s : State) : Byte :=
  match s.cu.window with
  | none => 0
  | some r => if s.cu.readIndex < r.length then s.cu.recordByte r s.cu.readIndex else 0

/-- The read side of a page (R196); pages 8 to 255 read 0 (R184). -/
def State.pageBytes (s : State) : List Byte :=
  match s.biu.page.toNat with
  | 0 => entryPage s.au.window
  | 1 => timePage s.tb.latch
  | 2 => channelPage s.ser.copy
  | 3 => messagePage s.mm.copy
  | 4 => triggerPage s.tu.copy
  | 5 => capturePage s.cu.window
  | 6 => noticePage s.niu.copy
  | 7 => linesPage s.du.copy
  | _ => []

/-- The byte a location drives in a read cycle (R181, R196); a location that no table lists reads 0 (R194). -/
def State.readLocation (s : State) (loc : Location) : Byte :=
  match loc.toNat with
  | 0x00 => s.status
  | 0x01 => s.biu.page
  | 0x02 => s.biu.arg
  | 0x03 => s.biu.result.code
  | 0x04 => s.cause
  | 0x05 => s.niu.causeEnable.setWidth 8
  | 0x06 => s.niu.faults.setWidth 8
  | 0x07 => s.niu.faultEnable.setWidth 8
  | 0x08 => BitVec.ofNat 8 s.niu.queue.length
  | 0x09 => BitVec.ofNat 8 s.cu.queue.length
  | 0x0A => s.mm.pointer.setWidth 8
  | 0x0B => s.mm.ptrCopy.setWidth 8
  | 0x0C => storeByte s.mm s.mm.pointer.toNat
  | 0x0D => s.capData
  | 0x0E => s.lineLevel
  | 0x0F => BitVec.ofNat 8 s.chosenCount
  | n => s.pageBytes.getD (n - 16) 0

/-- What D0 to D7 carry in a read cycle on a location: its byte, and high impedance, which is absent here, while the bus is
ignored (R181, R183). `half`: the cycle began before CS_N, RD_N and WR_N were all high together after the last reset's end. A
cycle of a row that is half is one of those the state counts; a read without a row is not, and says it here (log 15). -/
def State.drives (s : State) (half : Bool) (loc : Location) : Option Byte :=
  if s.busTaken && !half then some (s.readLocation loc) else none

/-- What a read cycle whose rise of RD_N names `loc` drives for the host (R181, R182, R183). -/
def readDriven (half : Bool) (cycle : ReadCycle) (loc : Location) (s : State) : Option Byte :=
  match cycle with
  | .whole | .selectFirst => s.drives half loc
  | .moved latched => s.drives half latched
  | .bothStrobes => none

/-- A read cycle whose rise of RD_N names `loc`: what the host takes, and the side effect of the location (R181, R182). -/
def readCycle (s : State) (cycle : ReadCycle) (loc : Location) (side : State → State) : State :=
  let taken :=
    match cycle with
    | .whole | .moved _ => onBus s side
    | .selectFirst | .bothStrobes => onBus s id
  { taken with hostRead := readDriven false cycle loc s }

end Sys2Proof.Machine
end

