-- ==== Sys2Proof/Machine/CaptureQueue.lean ====
section
/-! DEFINITION. Taking capture records: CAP_POP (R143), CAP_FLUSH (R146), CAP_DATA (R145). -/

namespace Sys2Proof.Machine

/-- The bytes of a discarded record leave the oldest end of its channel's ring (R137). -/
def discardBytes (r : CaptureRecord) (cu : Capture) : Capture :=
  match r.source with
  | .edge _ _ => cu
  | .frame ch => { cu with rings := cu.rings.set ch ((cu.rings.get ch).freeOldest r.length) }

/-- The read-window record is discarded, if one is present (R143). -/
def discardWindow (cu : Capture) : Capture :=
  match cu.window with
  | none => cu
  | some r => discardBytes r cu

/-- CAP_POP (R143). -/
def execCapPop (s : State) : Answer :=
  .next (atOnce s fun s =>
    match s.cu.queue with
    | [] => (s, .empty)
    | r :: rest => ({ s with cu := { discardWindow s.cu with window := some r, queue := rest, readIndex := 0 } }, .ok))

/-- The bytes of a channel's open record. -/
def Capture.openLength (cu : Capture) (ch : Channel) : Nat := ((cu.opened.get ch).map CaptureRecord.length).getD 0

/-- A ring keeps the bytes of its open record alone (R137, R146). -/
def Ring.keepNewest (n : Nat) (r : Ring) : Ring := r.freeOldest (r.held.length - n)

/-- CAP_FLUSH (R146): open records are untouched. -/
def execCapFlush (s : State) : Answer :=
  .next (atOnce s fun s =>
    ({ s with cu :=
        { s.cu with
          queue := [], window := none, readIndex := 0, dropped := { a := 0, b := 0 }, droppedEv := 0,
          rings := { a := s.cu.rings.a.keepNewest (s.cu.openLength .a),
                     b := s.cu.rings.b.keepNewest (s.cu.openLength .b) } } }, .ok))

/-- The read index after a CAP_DATA read (R145). -/
def advanceReadIndex (cu : Capture) : Capture :=
  match cu.window with
  | none => cu
  | some r => if cu.readIndex < r.length then { cu with readIndex := cu.readIndex + 1 } else cu

/-- CAP_DATA_READ (R145). -/
def execCapDataRead (cycle : ReadCycle) (s : State) : Answer :=
  .next (readCycle s cycle 0x0D fun s => { s with cu := advanceReadIndex s.cu })

end Sys2Proof.Machine
end

