-- ==== Sys2Proof/Machine/Lines.lean ====
section
/-! DEFINITION. The Dispatch Unit's commands: PULSE_END (R72), LINE_WRITE (R75), LINE_READ (R78). -/

namespace Sys2Proof.Machine

/-- PULSE_END (R71, R72): the Dispatch Unit takes the tick that is on its way to it, with the pulse ends it brings. A tick that
the unit took in the step of its TICK has ended its pulses there, and nothing is left for this row (log 6). -/
def execPulseEnd (s : State) : Answer :=
  .next (whenMain s fun s => bringTicks { s with du := s.du.settle })

/-- The drive of all eight lines from a drive mask (R75). -/
def setDrive (mask : BitVec 8) (d : DispatchUnit) : DispatchUnit :=
  { d with lines := d.lines.mapIdx fun i l => { l with driven := mask.getLsbD i } }

/-- LINE_WRITE (R75): the drive and the line action of the copied staging, with source HOST. -/
def execLineWrite (s : State) : Answer :=
  .next (atOnce s fun s =>
    let st := s.du.staging
    ({ s with du := lineAction (stagedSetMask st) (stagedClearMask st) (stagedPulseWidth st) .host
                      (setDrive (stagedDriveMask st) s.du) }, .ok))

/-- LINE_READ (R78). -/
def execLineRead (s : State) : Answer :=
  .next (atOnce s fun s => ({ s with du.copy := s.du.lines }, .ok))

end Sys2Proof.Machine
end

