-- ==== Sys2Proof/Machine/Message.lean ====
section
/-! DEFINITION. The Message Memory's commands and bus locations (R81 to R90). -/

namespace Sys2Proof.Machine

/-- MSG_DEFINE (R81). -/
def execMsgDefine (s : State) : Answer :=
  .next (atOnce s fun s =>
    match messageOfByte s.biu.arg with
    | none => (s, .badArg)
    | some m =>
      let offset := stagedOffset s.mm.staging
      let length := stagedLength s.mm.staging
      if length = 0 ∨ 256 < length then (s, .badArg)
      else if 2047 < offset ∨ Config.storeSize < offset + length then (s, .badArg)
      else if 0 < s.mm.directory[m].busy then (s, .locked)
      else
        ({ s with mm.directory :=
             s.mm.directory.set m { s.mm.directory[m] with defined := true, offset := offset, length := length } }, .ok))

/-- MSG_UNDEFINE (R82). -/
def execMsgUndefine (s : State) : Answer :=
  .next (atOnce s fun s =>
    match messageOfByte s.biu.arg with
    | none => (s, .badArg)
    | some m =>
      if 0 < s.mm.directory[m].busy then (s, .locked)
      else
        ({ s with mm.directory :=
             s.mm.directory.set m { s.mm.directory[m] with defined := false, offset := 0, length := 0 } }, .ok))

/-- MSG_READ (R83). -/
def execMsgRead (s : State) : Answer :=
  .next (atOnce s fun s =>
    match messageOfByte s.biu.arg with
    | none => (s, .badArg)
    | some m => ({ s with mm.copy := { message := m, descriptor := s.mm.directory[m] } }, .ok))

/-! ## The pointer and the data port (R88 to R90) -/

/-- A write to MM_PTR low: the lower 8 bits (R88). -/
def writePtrLow (byte : Byte) (s : State) : State :=
  { s with mm.pointer := s.mm.pointer.extractLsb' 8 3 ++ byte }

/-- A write to MM_PTR high: the upper 3 bits, from the byte's lowest 3 (R88). -/
def writePtrHigh (byte : Byte) (s : State) : State :=
  { s with mm.pointer := byte.extractLsb' 0 3 ++ s.mm.pointer.extractLsb' 0 8 }

/-- A write to MM_DATA (R90): refused with MM_CONFLICT in a busy message's range, else written; the pointer advances. -/
def writeData (byte : Byte) (s : State) : State :=
  let s' :=
    if busyAt s.mm s.mm.pointer.toNat then setFault .mmConflict s
    else { s with mm.store := Memory.write s.mm.store s.mm.pointer.toNat byte }
  { s' with mm.pointer := s.mm.pointer + 1 }

/-- MM_PTR_LOW_WRITE (R88). -/
def execMmPtrLowWrite (byte : Byte) (s : State) : Answer := .next (onBus s (writePtrLow byte))

/-- MM_PTR_HIGH_WRITE (R88). -/
def execMmPtrHighWrite (byte : Byte) (s : State) : Answer := .next (onBus s (writePtrHigh byte))

/-- MM_PTR_LOW_READ (R88): the upper 3 bits go to the pointer read copy. -/
def execMmPtrLowRead (cycle : ReadCycle) (s : State) : Answer :=
  .next (readCycle s cycle 0x0A fun s => { s with mm.ptrCopy := s.mm.pointer.extractLsb' 8 3 })

/-- MM_DATA_READ (R89): the pointer advances at the end of the cycle. -/
def execMmDataRead (cycle : ReadCycle) (s : State) : Answer :=
  .next (readCycle s cycle 0x0C fun s => { s with mm.pointer := s.mm.pointer + 1 })

/-- MM_DATA_WRITE (R90). -/
def execMmDataWrite (byte : Byte) (s : State) : Answer := .next (onBus s (writeData byte))

end Sys2Proof.Machine
end

