-- ==== Sys2Proof/Machine/NoticeQueue.lean ====
section
/-! DEFINITION. The Notice and Interrupt Unit's commands and locations (R168 to R177). -/

namespace Sys2Proof.Machine

/-- NOTICE_POP (R168). -/
def execNoticePop (s : State) : Answer :=
  .next (atOnce s fun s =>
    match s.niu.queue with
    | [] => (s, .empty)
    | n :: rest => ({ s with niu.queue := rest, niu.copy := some n }, .ok))

/-- NOTICE_FLUSH (R172). -/
def execNoticeFlush (s : State) : Answer :=
  .next (atOnce s fun s => ({ s with niu.queue := [], niu.lost := 0 }, .ok))

/-- A write to FAULT clears the flags whose bits are 1 (R174). -/
def writeFault (byte : Byte) (s : State) : State :=
  { s with niu.faults := s.niu.faults &&& ~~~(byte.extractLsb' 0 6) }

/-- A write to FAULT_ENABLE (R175). -/
def writeFaultEnable (byte : Byte) (s : State) : State := { s with niu.faultEnable := byte.extractLsb' 0 6 }

/-- A write to CAUSE_ENABLE (R177). -/
def writeCauseEnable (byte : Byte) (s : State) : State := { s with niu.causeEnable := byte.extractLsb' 0 4 }

/-- A write to NOTICE_THRESHOLD (R170): 0 and 33 to 255 are taken as 1. -/
def writeThreshold (byte : Byte) (s : State) : State :=
  { s with niu.threshold := if 1 ≤ byte.toNat ∧ byte.toNat ≤ 32 then byte.toNat else 1 }

/-- FAULT_WRITE (R174). -/
def execFaultWrite (byte : Byte) (s : State) : Answer := .next (onBus s (writeFault byte))

/-- FAULT_ENABLE_WRITE (R175). -/
def execFaultEnableWrite (byte : Byte) (s : State) : Answer := .next (onBus s (writeFaultEnable byte))

/-- CAUSE_ENABLE_WRITE (R177). -/
def execCauseEnableWrite (byte : Byte) (s : State) : Answer := .next (onBus s (writeCauseEnable byte))

/-- NOTICE_THRESHOLD_WRITE (R170). -/
def execNoticeThresholdWrite (byte : Byte) (s : State) : Answer := .next (onBus s (writeThreshold byte))

end Sys2Proof.Machine
end

