-- ==== Sys2Proof/Machine/Power.lean ====
section
/-! DEFINITION. The supplies, RESET_N and SOFT_RESET (R18, R19, R183, R192). -/

namespace Sys2Proof.Machine

/-- COLD_START (R18, R19): the Time Base and the main domain take their cold-start values. Where only VBACK rose, VMAIN is
still below its threshold and the main domain stays down. -/
def execColdStart (supply : Supply) (halfCycles : Nat) (s : State) : Answer :=
  let s := resetLosingStore { s with tb := .coldStart }
  .next { s with power := { s.power with vmainGood := decide (supply = .vmain), backupHeld := true,
                                         skipCycles := halfCycles } }

/-- MAIN_POWER_UP (R18, R183): the main domain takes its reset values and the Time Base goes on unchanged. Where VBACK had not
kept the backup domain, the rise of VMAIN is the cold start of R18. -/
def execMainPowerUp (halfCycles : Nat) (s : State) : Answer :=
  let s := resetLosingStore (if s.power.backupHeld then s else { s with tb := .coldStart })
  .next { s with power := { s.power with vmainGood := true, backupHeld := true, skipCycles := halfCycles } }

/-- VMAIN_FALL (R18): the state of the main domain is lost; the backup domain is kept where VBACK holds it, and lost where it
does not. What is lost stands at its reset values, which nothing can see before the next power-up writes them (log 11). -/
def execVmainFall (vbackHolds : Bool) (s : State) : Answer :=
  if s.power.vmainGood then
    let s := resetLosingStore (if vbackHolds then s else { s with tb := .coldStart })
    .next { s with power := { s.power with vmainGood := false, backupHeld := vbackHolds, skipCycles := 0 } }
  else .next s

/-- BACKUP_DOMAIN_LOSS (R18): with VMAIN already below its threshold, the backup domain's state is lost. -/
def execBackupDomainLoss (s : State) : Answer :=
  if s.power.vmainGood then .next s
  else .next { s with tb := .coldStart, power := { s.power with backupHeld := false } }

/-- RESET_N_ASSERT (R183): the main domain is reset, the store and the descriptors are kept (R93), an agenda command in
flight is abandoned (R38) and the bus is ignored from here on. -/
def execResetNAssert (s : State) : Answer :=
  let s := resetKeepingStore s
  .next { s with power := { s.power with resetHigh := false, skipCycles := 0 } }

/-- RESET_N_RELEASE (R183): the main domain leaves its reset; the bus is taken from the first cycle that begins with CS_N, RD_N and
WR_N all high, and the cycles before it are ignored whole. -/
def execResetNRelease (halfCycles : Nat) (s : State) : Answer :=
  if s.power.resetHigh then .next s
  else .next { s with power := { s.power with resetHigh := true, skipCycles := halfCycles } }

/-- SOFT_RESET (R192): accepted in IDLE, it resets the main domain in the event of its acceptance and has no completion. -/
def execSoftReset (s : State) : Answer := .next (offer s resetKeepingStore)

end Sys2Proof.Machine
end

