-- ==== Sys2Proof/Machine/Pins.lean ====
section
/-! DEFINITION. The output pins as functions of the state (R68, R97, R98, R111), and what a receiver hears with the cross-loop on
(R111, R115). -/

namespace Sys2Proof.Machine

/-! ## Dispatch lines -/

/-- The DLn output (R68, R79): the record's level where the line is DRIVEN, else high impedance. -/
def State.dlPin (s : State) (n : Fin 8) : Option Bool :=
  if s.power.vmainGood && s.du.lines[n].driven then some s.du.lines[n].level else none

/-! ## Transmitter outputs -/

/-- What TXA or TXB carries (R97, R98): mark while the cross-loop is on (R111); not driven while VMAIN is below its
threshold (R113). -/
def State.txPin (s : State) (ch : Channel) : Option TxOut :=
  if s.power.vmainGood then some (if s.ser.loop then .mark else (s.tx ch).out) else none

/-! ## What a receiver hears (R111, R115) -/

/-- With the cross-loop on, a receiver's input is the other channel's transmitter output, so it cannot have gone to a level
that the other transmitter is known not to put out (R111). -/
def inputCanBe (s : State) (ch : Channel) (level : Bool) : Bool :=
  !s.ser.loop || (s.tx (otherChannel ch)).out.level != some !level

/-- The line falls with bit `k` of what it carries, from a 1 before it. -/
def LinePlace.fallsAt (p : LinePlace) (bits : List Bool) (k : Nat) : Bool :=
  ((p.before != some 0) :: bits).getD k false && bits.getD k true == false

/-- How long one bit of the line is, in halves of a unit of which the receiver's bit time is its divisor (R94). -/
def LoopHeard.unit (h : LoopHeard) : Nat := 2 * h.divisor

/-- The same for the line that a channel's receiver hears with the cross-loop on. -/
def lineUnit (s : State) (ch : Channel) : Nat := 2 * (s.chan (otherChannel ch)).config.divisor

/-! ### What it keeps of the line, and its place there -/

/-- A moment since the fall that lies past the bits. -/
def LoopHeard.past (h : LoopHeard) (moment : Nat) : Bool := decide (h.bits.length * h.unit ≤ moment)

/-- A moment can have come: what the line carries ends no sooner than its last bit. -/
def LoopHeard.reached (h : LoopHeard) (moment : Nat) : Bool :=
  match h.after with
  | .carries _ => decide (moment ≤ h.bits.length * h.unit)
  | .rest | .unknown => true

/-- The line, once its transmitter has gone on, carries a new bit at the edge `moment`: an event taken there finds that one. -/
def LoopHeard.hasMoved (h : LoopHeard) (moment : Nat) : Bool :=
  match h.after with
  | .carries since => moment / h.unit == since
  | .rest | .unknown => h.past moment

/-- The line shows a level at a moment since the fall. At the edge of two bits either neighbour may be heard, but not in an event
taken `now`, once the line has gone on. Past the bits the line shows nothing yet, mark, or, where it has begun again at a time
that no row tells, either level. -/
def LoopHeard.shows (h : LoopHeard) (now : Bool) (moment : Nat) (level : Bool) : Bool :=
  (match h.bits[moment / h.unit]? with
    | some b => b == level
    | none =>
      match h.after with
      | .carries _ => false
      | .rest => level
      | .unknown => true)
  || (moment % h.unit == 0 && moment != 0 && h.bits[moment / h.unit - 1]? == some level && !(now && h.hasMoved moment))

/-- The first of some bits that is at 1 and ends behind a moment. -/
def nextOne (bits : List Bool) (unit moment : Nat) : Option Nat :=
  (List.range bits.length).find? fun j => bits.getD j false && decide (moment < (j + 1) * unit)

/-- The bit with which the line, at 0 from the fall on, goes back to 1: the first at 1, or the mark at which it rests after the
last. Absent where it has not come to that yet. -/
def LoopHeard.risesAt (h : LoopHeard) : Option Nat :=
  match nextOne h.bits h.unit 0 with
  | some j => some j
  | none =>
    match h.after with
    | .carries _ => none
    | .rest | .unknown => some h.bits.length

/-- The samples a receiver takes in the middle of its bits, the start bit first, are ones that the line gives it (R111, R116,
R117); the event is taken `halves` half bit times after the fall. -/
def LoopHeard.gives (h : LoopHeard) (divisor halves : Nat) (samples : List Bool) : Bool :=
  h.reached (halves * divisor) && (List.range samples.length).all fun k =>
    h.shows (2 * k + 1 == halves) ((2 * k + 1) * divisor) (samples.getD k true)

/-- The line stands at 0 for `bits` of the receiver's bit times since the fall (R118): its bits last that long, with no 1 among
them before that. -/
def LoopHeard.staysLow (h : LoopHeard) (divisor bits : Nat) : Bool :=
  decide (bits * divisor ≤ h.bits.length * h.divisor)
    && (List.range h.bits.length).all fun j => !h.bits.getD j false || decide (bits * divisor ≤ j * h.divisor)

/-- A moment since a fall, counted from the beginning of what the line now carries: absent where it lies before that, or where the
line has rested since the fall. -/
def momentOnLine (s : State) (ch : Channel) (h : LoopHeard) (moment : Nat) : Option Nat :=
  let now := moment + (s.chan (otherChannel ch)).lineBits.length * lineUnit s ch
  match h.after with
  | .carries _ => if h.bits.length * lineUnit s ch ≤ now then some (now - h.bits.length * lineUnit s ch) else none
  | .rest | .unknown => none

/-- Where bit `k` of what the line now carries begins, counted from a fall: where the line has rested since, no sooner than behind
what it carried until then. -/
def sinceFall (s : State) (ch : Channel) (h : LoopHeard) (k : Nat) : Nat :=
  match h.after with
  | .carries _ =>
    (k + h.bits.length) * lineUnit s ch - (s.chan (otherChannel ch)).lineBits.length * lineUnit s ch
  | .rest | .unknown => h.bits.length * h.unit + 1

/-- The receiver's place on the line once it has come to a moment since a fall. -/
def placeAt (s : State) (ch : Channel) (h : LoopHeard) (moment : Nat) : LinePlace :=
  let p := (s.rx ch).place
  { p with heard := max p.heard ((momentOnLine s ch h moment).getD 0) }

/-! ### The order of what a looped receiver hears -/

/-- The next bit with which the other transmitter's line falls, at or behind the receiver's place. -/
def nextFall (s : State) (ch : Channel) : Option Nat :=
  let bits := (s.chan (otherChannel ch)).lineBits
  let p := (s.rx ch).place
  (List.range bits.length).find? fun k => p.fallsAt bits k && decide (p.heard ≤ k * lineUnit s ch)

/-- The receiver comes to bit `j` of the line with no fall before it left to hear (R111); where its place is only the earliest
that it can be, that is not known. -/
def comesTo (s : State) (ch : Channel) (j : Nat) : Bool :=
  !(s.rx ch).place.tracked || (nextFall s ch).all fun k => decide (j ≤ k)

/-- The input of a looped receiver can be at 1 at its place on the line: that line is not at 0, or it falls there (R111). -/
def canBeAtMark (s : State) (ch : Channel) : Bool :=
  inputCanBe s ch true || ((s.rx ch).place.heard == 0 && (s.rx ch).place.before != some 0)

/-- The line has stood at 1 for a receiver's bit time where its first `j` bits end, at a moment not heard yet (R116). -/
def LinePlace.markAt (p : LinePlace) (bits : List Bool) (unit bitTime j : Nat) : Bool :=
  decide (p.heard ≤ j * unit) && (p.onesTo (bits.take j)).all fun ones => decide (bitTime ≤ ones * unit)

/-- The same, where all of that mark is known to count: the receiver is then qualified there. -/
def LinePlace.markDue (p : LinePlace) (bits : List Bool) (unit bitTime j : Nat) : Bool :=
  p.whole && (p.onesTo (bits.take j)).any fun ones => decide (bitTime ≤ ones * unit)

/-- When a character is complete, in half bit times after its start bit's fall (R117): in the middle of its first stop bit where
that is at 1, else at the end of the character time. -/
def ChannelConfig.completeAt (c : ChannelConfig) (stopBit : Bool) : Nat :=
  if stopBit then 2 * (c.charBits - c.stopBits.count) + 1 else 2 * c.charBits

/-- The gap in bit times at which a frame ends (R123). -/
def SerialChannel.gapLimit (c : SerialChannel) : Nat := c.rx.rules.gap * c.config.charBits

/-- The same in the halves of `LoopHeard.unit`. -/
def gapLength (s : State) (ch : Channel) : Nat := 2 * (s.chan ch).config.divisor * (s.chan ch).gapLimit

/-- With the cross-loop on, the longest that the line can have stood at 1 since the end of the receiver's last character, up to a
moment of what it carries now (R111, R123). Absent where nothing bounds it: on a pin, and on a line that rests or has rested
since. -/
def markHeard (s : State) (ch : Channel) (moment : Nat) : Option Nat :=
  let c := s.chan (otherChannel ch)
  let p := (s.rx ch).place
  if !s.ser.loop || c.tx.out == .mark then none
  else p.mark.map (· + onesBetween c.lineBits (lineUnit s ch) p.counted moment)

/-- A sample of the character in hand comes before a moment since its start bit's fall, as far as the other transmitter's bits
tell: that of the start bit, or that which completes the character (R116, R117). -/
def sampleDue (s : State) (ch : Channel) (h : LoopHeard) (moment : Nat) : Bool :=
  let c := (s.chan ch).config
  if (s.rx ch).startConfirmed then
    decide (c.completeAt (!h.shows false (c.completeAt true * c.divisor) false) * c.divisor < moment)
  else decide (c.divisor ≤ moment)

/-- Nothing that the receiver hears of the looped line comes before the line's fall with bit `k`: no other fall, no sample of the
character in hand, no bit time of mark with which it qualifies, and no end of its gap (R111, R116, R117, R123). -/
def fallIsNext (s : State) (ch : Channel) (k : Nat) : Bool :=
  let c := s.chan ch
  let bits := (s.chan (otherChannel ch)).lineBits
  let unit := lineUnit s ch
  (!c.rx.place.tracked || nextFall s ch == some k) &&
    match c.rx.state with
    | .inChar => c.rx.looped.all fun h => !sampleDue s ch h (sinceFall s ch h k)
    | .idle | .inFrame =>
      !c.rx.place.tracked
        || (c.rx.markQualified || !c.rx.place.markDue bits unit (2 * c.config.divisor) k)
          && (c.rx.state == .idle || (markHeard s ch (k * unit)).all fun m => decide (m ≤ gapLength s ch))
    | .brk => true

/-- What the other transmitter's line carries from a fall with its bit `k` on, with the cross-loop on (R111); absent where its
line does not fall there, fell there before a moment that the receiver has heard already, or where the receiver has something
else to hear first. -/
def loopHeard (s : State) (ch : Channel) (k : Nat) : Option LoopHeard :=
  let c := s.chan (otherChannel ch)
  let p := (s.rx ch).place
  if s.ser.loop ∧ p.fallsAt c.lineBits k ∧ p.heard ≤ k * lineUnit s ch ∧ fallIsNext s ch k then
    some { bits := c.lineBits.drop k, divisor := c.config.divisor, after := .carries 0 }
  else none

/-- The receiver's place on the line once it has heard the fall of bit `k`. In IN_FRAME the gap count stands still from then on, and
where it had come to its end it goes on one bit time short of that (R123). -/
def placePastFall (s : State) (ch : Channel) (k : Nat) : LinePlace :=
  let p := (s.rx ch).place
  let moment := k * lineUnit s ch
  if s.ser.loop then
    if (s.rx ch).state = .inFrame then
      { p with
        heard := moment + 1
        mark := (markHeard s ch moment).map fun m =>
          if gapLength s ch ≤ m then gapLength s ch - 2 * (s.chan ch).config.divisor else m
        counted := max p.counted moment
        whole := true
        tracked := true }
    else { p with heard := moment + 1, whole := true, tracked := true }
  else p

/-- The receiver's place on the line once it has sampled its input `halves` half bit times after the fall of the start bit in
hand; mark counts for the gap again from there on (R123). A sample past a rest that has ended, with a low in hand that began before
it, comes at a moment that no row counts. -/
def placeAtSample (s : State) (ch : Channel) (halves : Nat) : LinePlace :=
  let r := s.rx ch
  match if s.ser.loop then r.looped else none with
  | some h =>
    let p := placeAt s ch h (halves * (s.chan ch).config.divisor)
    { p with
      counted := max p.counted ((momentOnLine s ch h (halves * (s.chan ch).config.divisor)).getD 0)
      tracked := p.tracked
        && !(r.lowWatch.isSome && h.after == .unknown && h.past (halves * (s.chan ch).config.divisor)) }
  | none => r.place

/-- The receiver's place on the line at a bit time of mark, with the cross-loop on: within the first such bit time that it has
not passed. Absent where the line has none before its next fall (R111, R116). A line at rest, and a pin, has one at any time. -/
def placeAtMark (s : State) (ch : Channel) : Option LinePlace :=
  let c := s.chan (otherChannel ch)
  let p := (s.rx ch).place
  if !s.ser.loop || c.tx.out == .mark then some p
  else if !canBeAtMark s ch then none
  else
    ((List.range (c.lineBits.length + 1)).find? fun j =>
        p.markAt c.lineBits (lineUnit s ch) (2 * (s.chan ch).config.divisor) j && comesTo s ch j).map
      fun j => { p with heard := max p.heard ((j - 1) * lineUnit s ch) }

/-- The receiver can have taken these samples since the fall that began its start bit, in an event `halves` half bit times after
it. With the cross-loop off its pin gives any (R115); with it on they are held to what the other transmitter has sent since,
and a sample of this very event that lies past those bits to the level which that transmitter now puts out (R111). -/
def samplesCanBe (s : State) (ch : Channel) (halves : Nat) (samples : List Bool) : Bool :=
  !s.ser.loop ||
    match (s.rx ch).looped with
    | some h =>
      h.gives (s.chan ch).config.divisor halves samples
        && (2 * samples.length != halves + 1 || !h.past (halves * (s.chan ch).config.divisor)
            || inputCanBe s ch (samples.getLastD true))
    | none => inputCanBe s ch (samples.getLastD true)

/-- The receiver's place on the line at a rise of its input, with the cross-loop on: where the low in hand ends on that line, or
else where it next stands at 1 (R111). Absent where it does not rise before its next fall, and where the low lasts a character
time: the break that this is comes first (R118). -/
def placeAtRise (s : State) (ch : Channel) : Option LinePlace :=
  let r := s.rx ch
  let c := s.chan (otherChannel ch)
  if !s.ser.loop then some r.place
  else if !inputCanBe s ch true then none
  else
    match r.lowWatch.bind LowWatch.looped with
    | some h =>
      if r.state ≠ .brk ∧ h.staysLow (s.chan ch).config.divisor (s.chan ch).config.charBits then none
      else
        h.risesAt.map fun j =>
          { placeAt s ch h (j * h.unit) with
            whole := true
            tracked := r.place.tracked || (momentOnLine s ch h (j * h.unit)).isSome }
    | none =>
      if c.tx.out = .mark then some r.place
      else
        ((nextOne c.lineBits (lineUnit s ch) r.place.heard).filter (comesTo s ch)).map fun j =>
          { r.place with heard := max r.place.heard (j * lineUnit s ch) }

/-- The receiver's place on the line at the completion of a character: the moment of its last sample, with the end of the
character time from which on mark counts for the gap (R117, R123). -/
def placeAtCharacter (s : State) (ch : Channel) (stopBit : Bool) : LinePlace :=
  let c := s.chan ch
  let p := placeAtSample s ch (c.config.completeAt stopBit)
  match if s.ser.loop then c.rx.looped else none with
  | some h =>
    match momentOnLine s ch h (2 * c.config.charBits * c.config.divisor) with
    | some m => { p with whole := p.whole && stopBit, mark := some 0, counted := m }
    | none => { p with whole := p.whole && stopBit, mark := none, counted := 0 }
  | none => p

/-- The receiver's place on the line at the end of a gap, with the cross-loop on: where the line has first stood at 1 that long
since the last character. Absent where it does not before its next fall (R111, R123). -/
def placeAtGap (s : State) (ch : Channel) : Option LinePlace :=
  let c := s.chan (otherChannel ch)
  let p := (s.rx ch).place
  if !canBeAtMark s ch then none
  else if (markHeard s ch 0).isNone then some p
  else
    ((List.range (c.lineBits.length + 1)).find? fun j => decide (p.heard ≤ j * lineUnit s ch) && comesTo s ch j &&
      (markHeard s ch (j * lineUnit s ch)).any fun m => decide (gapLength s ch ≤ m)).map
      fun j => { p with heard := max p.heard ((j - 1) * lineUnit s ch) }

/-- The moment up to which mark on the looped line can count for a gap that runs now: that of its next fall, or its end. -/
def gapReach (s : State) (ch : Channel) : Nat :=
  let length := (s.chan (otherChannel ch)).lineBits.length
  (if (s.rx ch).place.tracked then (nextFall s ch).getD length else length) * lineUnit s ch

/-- A gap count raised by bit times of mark, up to a moment of what a looped line carries: below the frame's end, and with the
cross-loop on no more than that line has stood at 1 (R111, R123). -/
def gapRaised (s : State) (ch : Channel) (bitTimes moment : Nat) : Nat :=
  let c := s.chan ch
  let most :=
    match markHeard s ch moment with
    | some m => min (c.gapLimit - 1) (m / (2 * c.config.divisor))
    | none => c.gapLimit - 1
  max c.rx.gap (min (c.rx.gap + bitTimes) most)

end Sys2Proof.Machine
end

