-- ==== Sys2Proof/Machine/Transmit.lean ====
section
/-! DEFINITION. The transmitters and the channel commands (R94 to R112). -/

namespace Sys2Proof.Machine

/-! ## Boundaries on the line -/

/-- A boundary on a transmitter's line; a tick that is still on its way to the transmitter reaches it first (R103, log 5). -/
def atBoundary (ch : Channel) (s : State) (f : State → State) : State :=
  whenMain s fun s => f (s.withTx ch (s.tx ch).settle)

/-- TX_CHARACTER_END (R104, R105, R107). -/
def execTxCharacterEnd (ch : Channel) (s : State) : Answer :=
  .next <| atBoundary ch s fun s =>
    let t := s.tx ch
    match t.out, t.queue with
    | .char _, .send m _ _ :: _ =>
      let sent := t.byteIndex + 1
      if t.state = .stopping then headLeaves ch (fun m src => .txAborted ch m src sent) s
      else if sent < s.mm.directory[m].length then
        putOnLine ch { t with byteIndex := sent, out := .char (messageByte s.mm m sent) } s
      else headLeaves ch (fun m src => .txDone ch m src t.elapsed) s
    | _, _ => s

/-- TX_BREAK_TIME_END (R106, R107): a BREAK leaves without notice. -/
def execTxBreakTimeEnd (ch : Channel) (s : State) : Answer :=
  .next <| atBoundary ch s fun s =>
    let t := s.tx ch
    match t.out with
    | .low =>
      if t.state = .stopping ∨ t.breakRemaining ≤ 1 then headLeaves ch (fun m src => .txAborted ch m src 0) s
      else putOnLine ch { t with breakRemaining := t.breakRemaining - 1 } s
    | _ => s

/-- TX_LEAD_END (R98, R107): an aborted request leaves with nothing sent; else its first character or break time begins. -/
def execTxLeadEnd (ch : Channel) (s : State) : Answer :=
  .next <| atBoundary ch s fun s =>
    let t := s.tx ch
    match t.out with
    | .lead =>
      if t.state = .stopping then headLeaves ch (fun m src => .txAborted ch m src 0) s
      else
        match t.queue with
        | .send m _ _ :: _ => putOnLine ch { t with out := .char (messageByte s.mm m 0) } s
        | .brk _ :: _ => putOnLine ch { t with out := .low } s
        | [] => s
    | _ => s

/-! ## Channel commands -/

/-- A command whose ARG names a channel: 2 to 255 is BAD_ARG. -/
def channelCommand (s : State) (f : Channel → State → State × ResultCode) : State × ResultCode :=
  match channelOfArg s.biu.arg with
  | none => (s, .badArg)
  | some ch => f ch s

/-- The level at a receiver's input, where the state tells it (log 17): with the cross-loop on, what the other transmitter is
known to put out (R111); else what a receiver that is on has last heard. -/
def inputKnown (s : State) (ch : Channel) : Option Bool :=
  match if s.ser.loop then (s.tx (otherChannel ch)).out.level else none with
  | some level => some level
  | none => if (s.chan ch).config.rxEnable then (s.rx ch).input else none

/-- The receiver begins to watch its input as it then stands (R115); with the cross-loop on, at a moment of what the line carries
that no row counts (log 18). -/
def Receiver.watchAfresh (input : Option Bool) (r : Receiver) : Receiver :=
  { r with
    markQualified := false, lowWatch := none, input := input
    place := { r.place with whole := false, tracked := false } }

/-- CH_CONFIG (R95, R115). -/
def execChConfig (s : State) : Answer :=
  .next (atOnce s fun s => channelCommand s fun ch s =>
    match stagedConfig s.ser.staging with
    | none => (s, .badArg)
    | some config =>
      if !(s.tx ch).queue.isEmpty then (s, .badState)
      else if (s.rx ch).state ≠ .idle then (s, .badState)
      else
        let rx := if config.rxEnable then (s.rx ch).watchAfresh (inputKnown s ch) else s.rx ch
        ({ s with ser.chans := s.ser.chans.set ch { s.chan ch with config := config, rx := rx } }, .ok))

/-- CH_SEND (R101). -/
def execChSend (s : State) : Answer :=
  .next (atOnce s fun s => channelCommand s fun ch s =>
    match messageOfByte (stagedSendMessage s.ser.staging) with
    | none => (s, .badArg)
    | some m =>
      match sendRefusal s ch m with
      | some .noMessage => (s, .badState)
      | some .channelOff => (s, .badState)
      | some .queueFull => (s, .full)
      | none => (joinSend ch m .host (stagedSendNotify s.ser.staging) s, .ok))

/-- CH_BREAK (R102). -/
def execChBreak (s : State) : Answer :=
  .next (atOnce s fun s => channelCommand s fun ch s =>
    let length := stagedBreakLength s.ser.staging
    if length = 0 then (s, .badArg)
    else
      match queueRefusal s ch with
      | some .queueFull => (s, .full)
      | some _ => (s, .badState)
      | none => (joinBreak ch length s, .ok))

/-- The abort of the head (R107): a SENDING or BREAKING transmitter enters STOPPING. -/
def Transmitter.abort (t : Transmitter) : Transmitter :=
  match t.state with
  | .sending | .breaking => { t with state := .stopping }
  | .idle | .stopping => t

/-- CH_ABORT (R107). -/
def execChAbort (s : State) : Answer :=
  .next (atOnce s fun s => channelCommand s fun ch s => (s.withTx ch (s.tx ch).abort, .ok))

/-- The transmit reset (R109): the waiting requests leave in order, with their notices, and the head is aborted. -/
def resetTransmitter (ch : Channel) (s : State) : State :=
  let t := s.tx ch
  let s := s.withTx ch { t.abort with queue := t.queue.take 1 }
  (t.queue.drop 1).foldl (fun s r => requestLeaves r (fun m src => .txAborted ch m src 0) s) s

/-- CH_TX_RESET (R109). -/
def execChTxReset (s : State) : Answer :=
  .next (atOnce s fun s => channelCommand s fun ch s => (resetTransmitter ch s, .ok))

/-- Neither receiver is in IN_CHAR or BREAK (R110). -/
def Receiver.betweenCharacters (r : Receiver) : Bool := r.state == .idle || r.state == .inFrame

/-- LOOP_SET (R110, R115). Both receivers then hear the other transmitter, which stands at mark (R110), or their pins. -/
def execLoopSet (s : State) : Answer :=
  .next (atOnce s fun s =>
    match yesNoOfByte s.biu.arg with
    | none => (s, .badArg)
    | some setting =>
      if (s.tx .a).state ≠ .idle ∨ (s.tx .b).state ≠ .idle then (s, .badState)
      else if !(s.rx .a).betweenCharacters || !(s.rx .b).betweenCharacters then (s, .badState)
      else if setting = s.ser.loop then (s, .ok)
      else
        let input := if setting then some true else none
        let s := (s.withRx .a ((s.rx .a).watchAfresh input)).withRx .b ((s.rx .b).watchAfresh input)
        ({ s with ser.loop := setting }, .ok))

/-! ## The channel copy -/

/-- A frame waits between characters, and no fall holds its gap count (R123). -/
def Receiver.waits (r : Receiver) : Bool := r.state == .inFrame && r.lowWatch.isNone

/-- The level at a receiver's input as a CH_READ finds it: the one that is known, or else a FREE VALUE (R115, R123; log 9). -/
def inputFound (s : State) (ch : Channel) : Bool := (inputKnown s ch).getD (Config.pinLevel s.gapDraws)

/-- The receiver as a CH_READ finds it. Where a frame waits between characters with its input at 1, bit times that no row counts
have raised the gap count: the rise is a FREE VALUE that keeps it below the count at which the frame ends (R123, R128; log 9),
and that may be 0. With its input at 0 the count stands still, and a level that the CH_READ has had to find is known from here
on. -/
def receiverFound (s : State) (ch : Channel) : Receiver :=
  let r := s.rx ch
  if r.waits then
    { r with
      gap :=
        if inputFound s ch || (s.ser.loop && canBeAtMark s ch) then gapRaised s ch (Config.gapDraw s.gapDraws) (gapReach s ch)
        else r.gap
      input := some (r.input.getD (inputFound s ch)) }
  else r

/-- The channel copy of a channel (R112, R128). -/
def channelCopyOf (ch : Channel) (s : State) : ChannelCopy :=
  let c := s.chan ch
  { channel := ch, config := c.config, loop := s.ser.loop, txState := c.tx.state, queued := c.tx.queue.length,
    head := { request := c.tx.queue.head?, byteIndex := c.tx.byteIndex, breakRemaining := c.tx.breakRemaining,
              elapsed := c.tx.elapsed },
    rxState := c.rx.state, frame := c.rx.frame, chars := c.rx.chars, flags := c.rx.flags, gap := c.rx.gap,
    markQualified := c.rx.markQualified, rules := c.rx.rules,
    rising := s.evi.rising, falling := s.evi.falling, samples := s.evi.last }

/-- CH_READ (R112, R128). -/
def execChRead (s : State) : Answer :=
  .next (atOnce s fun s => channelCommand s fun ch s =>
    let draws := if (s.rx ch).waits then s.gapDraws + 1 else s.gapDraws
    let s := s.withRx ch (receiverFound s ch)
    ({ s with ser.copy := channelCopyOf ch s, gapDraws := draws }, .ok))

end Sys2Proof.Machine
end

