-- ==== Sys2Proof/Machine/Receive.lean ====
section
/-! DEFINITION. The receivers and the event inputs (R114 to R131), and what they hand to the Capture Unit. -/

namespace Sys2Proof.Machine

/-- An event of a receiver; a receiver whose enable is off hears nothing (R115). -/
def whenListening (ch : Channel) (s : State) (f : State → State) : State :=
  whenMain s fun s => if (s.chan ch).config.rxEnable then f s else s

/-! ## Levels and qualification (R116, R118, R119) -/

/-- A fall of the input, as the receiver takes it. The low watch starts and mark qualification ends; in IDLE the stamp is
noted, in IN_FRAME the gap count stands still at `gap`; with mark qualified the fall is taken as a start bit. `heard` is what it
begins, with the cross-loop on. -/
def Receiver.fall (now : Stamp) (gap : Nat) (heard : Option LoopHeard) (r : Receiver) : Receiver :=
  let watched (byStart : Bool) : Receiver :=
    { r with markQualified := false, lowWatch := some { stamp := now, byStartBit := byStart, looped := heard },
             input := some false }
  match r.state with
  | .idle =>
    { watched r.markQualified with
      state := if r.markQualified then .inChar else .idle, noted := some now, startConfirmed := false, looped := heard }
  | .inFrame =>
    { watched r.markQualified with
      state := if r.markQualified then .inChar else .inFrame,
      gap := gap, startConfirmed := false, looped := heard }
  | .inChar => watched false
  | .brk => r

/-- The input is not known to stand at a level already, so it can go there. -/
def Receiver.canGoTo (r : Receiver) (level : Bool) : Bool := r.input != some level

/-- RX_FALL (R116, R118). An input already at 0 does not fall (R115), and with the cross-loop on it falls only where the other
transmitter's line does, and hears each of its falls once and in order (R111). -/
def execRxFall (ch : Channel) (fall : Fall) (s : State) : Answer :=
  .next <| whenListening ch s fun s =>
    let heard := loopHeard s ch fall.bit.val
    if (s.rx ch).lowWatch.isSome || !(s.rx ch).canGoTo false || (s.ser.loop && heard.isNone) then s
    else
      let gap := gapRaised s ch fall.markBits.toNat (fall.bit.val * lineUnit s ch)
      s.withRx ch { (s.rx ch).fall s.now gap heard with
        place := placePastFall s ch fall.bit.val }

/-- A rise of the input: the low watch clears, and a receiver in BREAK enters IDLE unqualified (R118, R119). -/
def Receiver.rise (r : Receiver) : Receiver :=
  match r.state with
  | .brk => { r with state := .idle, markQualified := false, lowWatch := none, input := some true }
  | .idle | .inFrame | .inChar => { r with lowWatch := none, input := some true }

/-- RX_RISE (R118, R119). With the cross-loop on the input rises where the other transmitter's line does (R111). -/
def execRxRise (ch : Channel) (s : State) : Answer :=
  .next <| whenListening ch s fun s =>
    match placeAtRise s ch with
    | none => s
    | some place => s.withRx ch { (s.rx ch).rise with place := place }

/-- MARK_QUALIFIED (R116): only an input that stands at 1 qualifies, and with the cross-loop on only where the other
transmitter's line has stood at 1 for a bit time of the receiver's (R111). -/
def execMarkQualified (ch : Channel) (s : State) : Answer :=
  .next <| whenListening ch s fun s =>
    if (s.rx ch).lowWatch.isSome || (s.rx ch).state == .brk || !(s.rx ch).canGoTo false then s
    else
      match placeAtMark s ch with
      | none => s
      | some place => s.withRx ch { s.rx ch with markQualified := true, input := some true, place := place }

/-! ## Frames -/

/-- A frame starts (R120): the Capture Unit is asked for a slot, and the frame is OPEN or DROPPED. -/
def startFrame (ch : Channel) (s : State) : State :=
  let r := { s.rx ch with chars := 0, flags := FrameFlags.clear }
  if s.cu.slotFree then
    let record := freshRecord (.frame ch) (r.noted.getD s.now) (s.cu.rings.get ch).freeEnd
    { s.withRx ch { r with frame := .opened } with cu.opened := s.cu.opened.set ch (some record) }
  else dropFrame ch (s.withRx ch { r with frame := .dropped })

/-- A receiver after the end of its frame (R125). -/
def Receiver.afterFrame (next : RxState) (r : Receiver) : Receiver :=
  { r with state := next, frame := .none, noted := none, chars := 0, flags := .clear, gap := 0, startConfirmed := false }

/-- The close of a channel's open record with the receiver's end cause and flags (R125, R139). -/
def closeOpened (ch : Channel) (cause : EndCause) (flags : FrameFlags) (s : State) : State :=
  match s.cu.opened.get ch with
  | none => s
  | some r =>
    closeRecord
      { r with
        endCause := some cause
        flags := { parity := flags.parity, framing := flags.framing, brk := decide (cause = .brk),
                   truncated := r.flags.truncated } }
      { s with cu.opened := s.cu.opened.set ch none }

/-- The end of a frame (R121, R123 to R125): an OPEN one is closed, a DROPPED one just ends. -/
def endFrame (ch : Channel) (cause : EndCause) (s : State) : State :=
  let flags := (s.rx ch).flags
  let closed := if (s.rx ch).frame = .opened then closeOpened ch cause flags s else s
  closed.withRx ch ((closed.rx ch).afterFrame (if cause = .brk then .brk else .idle))

/-- START_BIT_SAMPLE (R116, R120). With the cross-loop on the sample is what the other transmitter sends (R111). -/
def execStartBitSample (ch : Channel) (level : Bool) (s : State) : Answer :=
  .next <| whenListening ch s fun s =>
    let r := { s.rx ch with place := placeAtSample s ch 1 }
    if r.state ≠ .inChar ∨ r.startConfirmed ∨ ¬ samplesCanBe s ch 1 [level] then s
    else if level then
      if r.frame = .none then s.withRx ch { r with state := .idle, noted := none, lowWatch := none, input := some true }
      else s.withRx ch { r with state := .inFrame, lowWatch := none, input := some true }
    else
      let s := s.withRx ch { r with startConfirmed := true }
      if r.frame = .none then startFrame ch s else s

/-! ## Characters (R117, R122, R124) -/

/-- The parity bit heard does not fit the data bits heard (R117). -/
def ChannelConfig.parityWrong (c : ChannelConfig) (data : Byte) (parityBit : Bool) : Bool :=
  match c.parityBit data with
  | none => false
  | some p => p != parityBit

/-- The input has stood at 0 without a break since the start bit's fall (R117): with the cross-loop on, the other transmitter has
put out 0 for that long (R111); on a pin, every sample is 0 and the low watch is still that of the start bit. -/
def allLow (s : State) (ch : Channel) (data : Byte) (parityBit stopBit : Bool) : Bool :=
  let c := s.chan ch
  match if s.ser.loop then c.rx.looped else none with
  | some h => h.staysLow c.config.divisor c.config.charBits
  | none =>
    !stopBit && c.config.dataOf data == 0 && (c.config.parity == .none || !parityBit)
      && (c.rx.lowWatch.map LowWatch.byStartBit == some true)

/-- The samples of a character, the start bit first (R117). -/
def ChannelConfig.samples (c : ChannelConfig) (data : Byte) (parityBit stopBit : Bool) : List Bool :=
  [false] ++ dataBitList c.dataBits.count data ++ (if c.parity = .none then [] else [parityBit]) ++ [stopBit]

/-- The receiver with a complete character counted (R117, R122). DESIGN CHOICE (log 9): the gap count restarts in the event of
the character's completion. After a first stop bit at 1, R117 and R123 let it run from the end of the character time only,
which comes half a bit time later or more, and the table has no event for that end. -/
def Receiver.counted (parityWrong stopBit : Bool) (r : Receiver) : Receiver :=
  { r with
    state := .inFrame
    chars := r.chars + 1
    flags := { parity := r.flags.parity || parityWrong, framing := r.flags.framing || !stopBit }
    gap := 0
    markQualified := stopBit
    lowWatch := if stopBit then none else r.lowWatch
    input := if stopBit then some true else r.input
    startConfirmed := false }

/-- A complete character: its byte is handed on where the frame is OPEN, and it may end the frame (R122, R124). -/
def takeCharacter (ch : Channel) (byte : Byte) (parityWrong stopBit : Bool) (s : State) : State :=
  let r := (s.rx ch).counted parityWrong stopBit
  let s := s.withRx ch r
  let s := if r.frame = .opened then { s with cu := storeFrameByte ch byte s.cu } else s
  if r.rules.terminator = some byte then endFrame ch .terminator s
  else if r.rules.maxLength ≤ r.chars then endFrame ch .maxLength s
  else s

/-- RX_CHARACTER_COMPLETE (R117). A character that is a break is no character: its event is BREAK_DETECTED. With the cross-loop
on the samples are what the other transmitter sends (R111). -/
def execRxCharacterComplete (ch : Channel) (data : Byte) (parityBit stopBit : Bool) (s : State) : Answer :=
  .next <| whenListening ch s fun s =>
    let c := s.chan ch
    if c.rx.state ≠ .inChar ∨ ¬ c.rx.startConfirmed ∨ allLow s ch data parityBit stopBit
        ∨ ¬ samplesCanBe s ch (c.config.completeAt stopBit) (c.config.samples data parityBit stopBit) then s
    else
      takeCharacter ch (c.config.dataOf data) (c.config.parityWrong data parityBit) stopBit
        (s.withRx ch { c.rx with place := placeAtCharacter s ch stopBit })

/-- GAP_EXPIRY (R123): in IN_FRAME with the input at 1 the frame ends with GAP. With the cross-loop on the other transmitter's
line must stand at 1, and have done so for the gap since the last character (R111). Where no event has told the level since the
receiver began to watch, this one does (log 17). -/
def execGapExpiry (ch : Channel) (s : State) : Answer :=
  .next <| whenListening ch s fun s =>
    if (s.rx ch).waits && (s.rx ch).canGoTo false then
      match placeAtGap s ch with
      | none => s
      | some place => endFrame ch .gap (s.withRx ch { s.rx ch with place := place })
    else s

/-- The zero-length record of a break heard in IDLE (R118, R140). -/
def breakRecord (ch : Channel) (stamp : Stamp) (place : Nat) : CaptureRecord :=
  { freshRecord (.frame ch) stamp place with flags.brk := true, endCause := some .brk }

/-- A low can have lasted a character time: with the cross-loop on, the other transmitter must have put out 0 for that long since
the fall that began it (R111, R118). -/
def breakCanBe (s : State) (ch : Channel) (low : LowWatch) : Bool :=
  !s.ser.loop ||
    match low.looped with
    | some h => h.staysLow (s.chan ch).config.divisor (s.chan ch).config.charBits
    | none => true

/-- BREAK_DETECTED (R118): the frame in hand ends, in IN_CHAR with the low that the start bit began, or a break in IDLE is recorded or dropped, and the receiver enters
BREAK. -/
def execBreakDetected (ch : Channel) (s : State) : Answer :=
  .next <| whenListening ch s fun s =>
    let r := s.rx ch
    match r.lowWatch with
    | none => s
    | some low =>
      if breakCanBe s ch low then
        match r.state with
        | .brk => s
        | .inChar => if r.startConfirmed && low.byStartBit then endFrame ch .brk s else s
        | .inFrame => endFrame ch .brk s
        | .idle =>
          let recorded :=
            if s.cu.slotFree then closeRecord (breakRecord ch low.stamp (s.cu.rings.get ch).freeEnd) s else dropFrame ch s
          recorded.withRx ch { recorded.rx ch with state := .brk }
      else s

/-! ## Receiver commands -/

/-- CH_FRAME_CONFIG (R126). -/
def execChFrameConfig (s : State) : Answer :=
  .next (atOnce s fun s => channelCommand s fun ch s =>
    match stagedFrameRules s.ser.staging with
    | none => (s, .badArg)
    | some rules =>
      if (s.rx ch).state ≠ .idle then (s, .badState)
      else (s.withRx ch { s.rx ch with rules := rules }, .ok))

/-- An open record is abandoned (R142): its slot and its bytes at the newest end are freed. -/
def abandonRecord (ch : Channel) (cu : Capture) : Capture :=
  match cu.opened.get ch with
  | none => cu
  | some r =>
    { cu with opened := cu.opened.set ch none, rings := cu.rings.set ch ((cu.rings.get ch).freeNewest r.length) }

/-- CH_RX_RESET (R127). -/
def execChRxReset (s : State) : Answer :=
  .next (atOnce s fun s => channelCommand s fun ch s =>
    ({ s.withRx ch (((s.rx ch).afterFrame .idle).watchAfresh (inputKnown s ch)) with cu := abandonRecord ch s.cu }, .ok))

/-! ## Event inputs -/

/-- EV_CONFIG (R131). -/
def execEvConfig (s : State) : Answer :=
  .next (atOnce s fun s =>
    ({ s with evi.rising := stagedRising s.ser.staging, evi.falling := stagedFalling s.ser.staging }, .ok))

/-- One edge offered to the Capture Unit (R130, R140): recorded and closed at once, or dropped. -/
def offerEdge (stamp : Stamp) (s : State) (e : Fin 4 × EdgeDir) : State :=
  if s.cu.slotFree then closeRecord (freshRecord (.edge e.1 e.2) stamp 0) s else dropEdge s

/-- EDGE_GROUP (R130): the edges found at one tick are offered as one group, in line order. -/
def execEdgeGroup (s : State) : Answer :=
  .next <| whenMain s fun s =>
    match s.evi.found with
    | [] => s
    | g :: rest => g.edges.foldl (offerEdge g.stamp) { s with evi.found := rest }

end Sys2Proof.Machine
end

