-- ==== Sys2Proof/Machine/Calendar.lean ====
section
/-! DEFINITION. The calendar of the part (R9 to R11): 2000-01-01 to 2099-12-31. -/

namespace Sys2Proof.Machine

/-- A leap year of the calendar range (R10). -/
def isLeap (year : Nat) : Bool := year % 4 == 0

/-- The days of a year (R10). -/
def yearLength (year : Nat) : Nat := if isLeap year then 366 else 365

/-- The days of a month (R10); no days outside 1..12. -/
def monthLength (year month : Nat) : Nat :=
  match month with
  | 1 | 3 | 5 | 7 | 8 | 10 | 12 => 31
  | 4 | 6 | 9 | 11 => 30
  | 2 => if isLeap year then 29 else 28
  | _ => 0

/-- The checks of R9. -/
def Calendar.valid (c : Calendar) : Bool :=
  decide (2000 ≤ c.year) && decide (c.year ≤ 2099) && decide (1 ≤ c.month) && decide (c.month ≤ 12)
    && decide (1 ≤ c.day) && decide (c.day ≤ monthLength c.year c.month) && decide (c.hour ≤ 23)
    && decide (c.minute ≤ 59) && decide (c.second ≤ 59) && decide (c.fraction ≤ 4095)

/-- The lengths of `n` years from `year` on, added up. -/
def yearsBefore (year : Nat) : Nat → Nat
  | 0 => 0
  | n + 1 => yearsBefore year n + yearLength (year + n)

/-- The lengths of the first `n` months of a year, added up. -/
def monthsBefore (year : Nat) : Nat → Nat
  | 0 => 0
  | n + 1 => monthsBefore year n + monthLength year (n + 1)

/-- Whole days from 2000-01-01 to a date (R10). -/
def dayNumber (c : Calendar) : Nat := yearsBefore 2000 (c.year - 2000) + monthsBefore c.year (c.month - 1) + (c.day - 1)

/-- A calendar date and time as a tick time (R10). -/
def Calendar.toTicks (c : Calendar) : Nat :=
  (dayNumber c * 86400 + c.hour * 3600 + c.minute * 60 + c.second) * 4096 + c.fraction

/-- The year in which a day falls and the days left over in it, looking at up to `fuel` years from `year` on (R11). -/
def findYear : Nat → Nat → Nat → Nat × Nat
  | 0, year, days => (year, days)
  | fuel + 1, year, days =>
    if days < yearLength year then (year, days) else findYear fuel (year + 1) (days - yearLength year)

/-- The month in which a day of a year falls and the days left over in it, looking at up to `fuel` months (R11). -/
def findMonth (year : Nat) : Nat → Nat → Nat → Nat × Nat
  | 0, month, days => (month, days)
  | fuel + 1, month, days =>
    if days < monthLength year month then (month, days)
    else findMonth year fuel (month + 1) (days - monthLength year month)

/-- A tick time as calendar fields (R11). -/
def calendarOf (ticks : Nat) : Calendar :=
  let seconds := ticks / 4096
  let inDay := seconds % 86400
  let yearDays := findYear 99 2000 (seconds / 86400)
  let monthDays := findMonth yearDays.1 11 1 yearDays.2
  { year := yearDays.1, month := monthDays.1, day := monthDays.2 + 1, hour := inDay / 3600,
    minute := inDay % 3600 / 60, second := inDay % 60, fraction := ticks % 4096 }

/-- The weekday of a tick time, 0 for Sunday (R11). -/
def weekdayOf (ticks : Nat) : Nat := (ticks / 4096 / 86400 + 6) % 7

end Sys2Proof.Machine
end

