-- ==== Sys2Proof/Machine/TimeBase.lean ====
section
/-! DEFINITION. The Time Base: the tick and the six time commands (R1 to R17). -/

namespace Sys2Proof.Machine

/-! ## The tick -/

/-- The Time Base takes a tick (R2, R3). The stop at END sets TIME_END unless VMAIN is below its threshold; while RESET_N is
low the fault flags are held clear (R179; log 13). -/
def tickTimeBase (s : State) : State :=
  let s := { s with tb.phase := 0 }
  match s.tb.run with
  | .stopped => s
  | .running =>
    if s.tb.count = Config.endTime then
      let s := { s with tb.run := .stopped }
      if s.mainAlive then setFault .timeEnd s else s
    else { s with tb.count := s.tb.count + 1 }

/-- The Dispatch Unit takes a tick, after any that is still on its way to it; or this one is on its way, for as long as
`tickMayWait` lets it be (R71, log 5). -/
def tickLines (late : Bool) (d : DispatchUnit) : DispatchUnit :=
  let d := d.settle
  if late then { d with tickOwed := true } else d.takeTick

/-- A transmitter takes a tick, likewise (R103, log 5). -/
def tickTransmitter (late : Bool) (t : Transmitter) : Transmitter :=
  let t := t.settle
  if late then { t with tickOwed := true } else t.takeTick

/-- The edge between two samples of a line, where there is one (R129). -/
def edgeBetween (last : Option Bool) (sample : Bool) : Option EdgeDir :=
  match last, sample with
  | some false, true => some .rising
  | some true, false => some .falling
  | _, _ => none

/-- The edge found on a line, where its enable for that direction is on (R129). -/
def enabledEdge (evi : EventInputs) (ev : BitVec 4) (n : Fin 4) : Option (Fin 4 × EdgeDir) :=
  match edgeBetween evi.last[n] (ev.getLsbD n.val) with
  | some .rising => if evi.rising.getLsbD n.val then some (n, .rising) else none
  | some .falling => if evi.falling.getLsbD n.val then some (n, .falling) else none
  | none => none

/-- The Event Input block samples the four lines (R129): the enabled edges wait as one group with their stamp (R130). -/
def sampleEvents (ev : BitVec 4) (stamp : Stamp) (evi : EventInputs) : EventInputs :=
  let edges := ([0, 1, 2, 3] : List (Fin 4)).filterMap (enabledEdge evi ev)
  { evi with
    last := evi.last.mapIdx fun n _ => some (ev.getLsbD n)
    found := if edges.isEmpty then evi.found else evi.found ++ [{ edges := edges, stamp := stamp }] }

/-- A tick (R1): the Time Base takes it, and while the main domain is up the Dispatch Unit, the transmitters and the Event
Input block do, each in this event unless an occurrence that is taken at it comes before the tick there (R71, R103, log 5).
DESIGN CHOICE (log 5): an edge found at this tick is stamped with the pair as the Time Base holds it at this event, from before
or after the tick. Where the tick meets a time load or step, R6 and R162 leave open from which side of that event the pair is:
here the queue's order says it, and with the tick first the pair is from before the load or step. -/
def issueTick (ev : BitVec 4) (order : TickOrder) (s : State) : State :=
  let before := s.now
  let s := tickTimeBase s
  let stamp := if order.edgeStampBefore then before else s.now
  whenMain s fun s =>
    bringTicks
      { (s.withTx .a (tickTransmitter order.lateTxA (s.tx .a))).withTx .b (tickTransmitter order.lateTxB (s.tx .b)) with
        du := tickLines order.lateDu s.du
        evi := sampleEvents ev stamp s.evi }

/-- Oscillator periods pass, at most up to the pass of the phase from 7 to 0, which issues a tick (R1). With the backup domain
lost there is no oscillator. DESIGN CHOICE (log 4): the oscillator runs from the cold start on; R18 lets it start some time
after, and gives neither an event for it nor a length. -/
def passPeriods (periods : Nat) (ev : BitVec 4) (order : TickOrder) (s : State) : State :=
  if s.power.backupHeld then
    if s.tb.phase + periods < 8 then { s with tb.phase := s.tb.phase + periods } else issueTick ev order s
  else s

/-- TICK (R1): the periods that have passed since the step before, and the one that takes the phase from 7 to 0. Where they do
not reach it (a time load has set the phase to 0 in between, R16), the tick does not arrive at this moment. -/
def execTick (ev : BitVec 4) (order : TickOrder) (s : State) : Answer :=
  .next (passPeriods (order.waited.val + 1) ev order s)

/-- The order in which the blocks take a tick on an empty queue: no occurrence follows it, so no block takes it late; which count
an edge is stamped with is a FREE VALUE (log 4). -/
def idleTickOrder (n : Nat) : TickOrder where
  waited := 0
  edgeStampBefore := Config.idleStampBefore n
  lateDu := false
  lateTxA := false
  lateTxB := false

/-- One oscillator period on an empty queue (R1, log 4). At the pass from 7 to 0 it issues a tick, for which the outside has
said nothing: the levels on the event inputs and the order of the blocks are FREE VALUES. That the oscillator runs from
COLD_START on is a DESIGN CHOICE (log 4), as at `passPeriods`. -/
def oscillatorPeriod (s : State) : State :=
  if s.power.backupHeld ∧ 7 ≤ s.tb.phase then
    passPeriods 1 (Config.idleLevels s.idleTicks) (idleTickOrder s.idleTicks) { s with idleTicks := s.idleTicks + 1 }
  else passPeriods 1 0 { waited := 0, edgeStampBefore := false, lateDu := false, lateTxA := false, lateTxB := false } s

/-! ## The time commands -/

/-- The snapshot of a Time Base (R8, R11). -/
def takeLatch (tb : TimeBase) : Latch where
  stamp := { count := tb.count, generation := tb.generation }
  run := tb.run
  date := calendarOf tb.count
  weekday := weekdayOf tb.count

/-- TIME_SNAPSHOT (R8). -/
def execTimeSnapshot (s : State) : Answer :=
  .next (atOnce s fun s => ({ s with tb.latch := takeLatch s.tb }, .ok))

/-- An accepted time load (R12): the count, the next generation, TIME_VALID, phase 0; the run state is kept. -/
def loadTime (count : Nat) (tb : TimeBase) : TimeBase :=
  { tb with count := count, generation := tb.generation + 1, valid := true, phase := 0 }

/-- TIME_LOAD_CAL (R9, R10, R12). -/
def execTimeLoadCal (s : State) : Answer :=
  .next (atOnce s fun s =>
    let date := stagedCalendar s.tb.staging
    if date.valid then ({ s with tb := loadTime date.toTicks s.tb }, .ok) else (s, .badDate))

/-- TIME_LOAD_COUNT (R13). -/
def execTimeLoadCount (s : State) : Answer :=
  .next (atOnce s fun s =>
    let count := stagedCount s.tb.staging
    if Config.endTime < count then (s, .outOfRange) else ({ s with tb := loadTime count s.tb }, .ok))

/-- TIME_STEP (R14). -/
def execTimeStep (s : State) : Answer :=
  .next (atOnce s fun s =>
    let target : Int := (s.tb.count : Int) + stagedDelta s.tb.staging * 4096
    if target < 0 ∨ (Config.endTime : Int) < target then (s, .outOfRange)
    else ({ s with tb.count := target.toNat, tb.generation := s.tb.generation + 1 }, .ok))

/-- TIME_RUN (R17). -/
def execTimeRun (s : State) : Answer :=
  .next (atOnce s fun s =>
    if s.tb.count = Config.endTime then (s, .outOfRange) else ({ s with tb.run := .running }, .ok))

/-- TIME_STOP (R15). -/
def execTimeStop (s : State) : Answer :=
  .next (atOnce s fun s => ({ s with tb.run := .stopped }, .ok))

end Sys2Proof.Machine
end

