-- ==== Sys2Proof/Machine/TriggerTable.lean ====
section
/-! DEFINITION. The trigger commands (R151 to R153). -/

namespace Sys2Proof.Machine

/-- Every unanswered request of a rule is detached from it (R158). -/
def detachRequests (k : Fin 8) (tu : Triggers) : Triggers :=
  { tu with answers := tu.answers.map fun g => g.map fun q => if q.rule = k then { q with current := false } else q }

/-- A command whose ARG names a rule: 8 to 255 is BAD_ARG. -/
def ruleCommand (s : State) (f : Fin 8 → State → State × ResultCode) : State × ResultCode :=
  match ruleOfArg s.biu.arg with
  | none => (s, .badArg)
  | some k => f k s

/-- TRIG_WRITE (R151). -/
def execTrigWrite (s : State) : Answer :=
  .next (atOnce s fun s => ruleCommand s fun k s =>
    match stagedRule s.tu.staging with
    | none => (s, .badArg)
    | some rule => ({ s with tu := { detachRequests k s.tu with rules := s.tu.rules.set k rule } }, .ok))

/-- TRIG_READ (R152). -/
def execTrigRead (s : State) : Answer :=
  .next (atOnce s fun s => ruleCommand s fun k s =>
    ({ s with tu.copy := { number := k, rule := s.tu.rules[k] } }, .ok))

/-- TRIG_DISABLE (R153). -/
def execTrigDisable (s : State) : Answer :=
  .next (atOnce s fun s => ruleCommand s fun k s =>
    ({ s with tu := { detachRequests k s.tu with
                      rules := s.tu.rules.set k { s.tu.rules[k] with enabled := false } } }, .ok))

end Sys2Proof.Machine
end

