-- ==== Sys2Proof/Machine/Bus.lean ====
section
/-! DEFINITION. The bus itself: a write cycle on any location (R180 to R184, R196), unknown command codes (R191) and the read
of RESULT (R190). -/

namespace Sys2Proof.Machine

/-! ## Staging writes -/

/-- A write of a byte to a location of the paged region, `i` counting from 0x10 (R184, R196): the staging of the selected page
takes it where the page has a staging byte there, and else it is ignored. -/
def writeStaging (i : Nat) (byte : Byte) (s : State) : State :=
  match s.biu.page.toNat with
  | 0 => { s with au.staging := s.au.staging.setIfInBounds i byte }
  | 1 => if i = 4 then s else { s with tb.staging := s.tb.staging.setIfInBounds i byte }
  | 2 => { s with ser.staging := s.ser.staging.setIfInBounds i byte }
  | 3 => { s with mm.staging := s.mm.staging.setIfInBounds i byte }
  | 4 => { s with tu.staging := s.tu.staging.setIfInBounds i byte }
  | 7 => { s with du.staging := s.du.staging.setIfInBounds i byte }
  | _ => s

/-! ## COMMAND -/

/-- UNKNOWN_COMMAND_CODE (R191): accepted in IDLE and completed at once with BAD_COMMAND. -/
def badCommand (s : State) : Answer := .next (atOnce s fun s => (s, .badCommand))

/-- A write of a code to COMMAND, by the command code table (R187, R191, R196). -/
def offerCode (code : Byte) (s : State) : Answer :=
  match commandOfCode code with
  | .timeSnapshot => execTimeSnapshot s
  | .timeLoadCal => execTimeLoadCal s
  | .timeLoadCount => execTimeLoadCount s
  | .timeStep => execTimeStep s
  | .timeRun => execTimeRun s
  | .timeStop => execTimeStop s
  | .entryLoad => execEntryLoad s
  | .entryRead => execEntryRead s
  | .entryRelease => execEntryRelease s
  | .entryArmAt => execEntryArmAt s
  | .entryArmIn => execEntryArmIn s
  | .entryDisarm => execEntryDisarm s
  | .agendaClear => execAgendaClear s
  | .lineWrite => execLineWrite s
  | .lineRead => execLineRead s
  | .msgDefine => execMsgDefine s
  | .msgUndefine => execMsgUndefine s
  | .msgRead => execMsgRead s
  | .chConfig => execChConfig s
  | .chFrameConfig => execChFrameConfig s
  | .chSend => execChSend s
  | .chBreak => execChBreak s
  | .chAbort => execChAbort s
  | .chTxReset => execChTxReset s
  | .chRxReset => execChRxReset s
  | .chRead => execChRead s
  | .loopSet => execLoopSet s
  | .evConfig => execEvConfig s
  | .capPop => execCapPop s
  | .capFlush => execCapFlush s
  | .trigWrite => execTrigWrite s
  | .trigRead => execTrigRead s
  | .trigDisable => execTrigDisable s
  | .noticePop => execNoticePop s
  | .noticeFlush => execNoticeFlush s
  | .softReset => execSoftReset s
  | _ => badCommand s

/-- UNKNOWN_COMMAND_CODE (R191): a write of the code to COMMAND. A code that the table does name is that command. -/
def execUnknownCommandCode (code : Byte) (s : State) : Answer := offerCode code s

/-! ## RESULT -/

/-- RESULT_READ (R190): the end of the cycle clears CMD_DONE, unless the command in flight completed within the cycle; then
the host took the code from before or after, and CMD_DONE stays set. -/
def execResultRead (cycle : ReadCycle) (meet : ResultMeet) (s : State) : Answer :=
  let clearDone (s : State) : State := { s with biu.cmdDone := false }
  match meet with
  | .none => .next (readCycle s cycle 0x03 clearDone)
  | .latchesOld | .latchesNew =>
    if s.portBusy then
      let after := whenMain s completeAgenda
      let read := readCycle after cycle 0x03 id
      let took := (readCycle s cycle 0x03 id).hostRead
      .next (if meet = .latchesOld then { read with hostRead := took } else read)
    else .next (readCycle s cycle 0x03 clearDone)

/-! ## Write cycles -/

/-- A write taken at a location (R180, R196). -/
def writeLocation (loc : Location) (byte : Byte) (s : State) : Answer :=
  match loc.toNat with
  | 0x01 => .next (onBus s fun s => { s with biu.page := byte })
  | 0x02 => .next (onBus s fun s => { s with biu.arg := byte })
  | 0x03 => offerCode byte s
  | 0x05 => .next (onBus s (writeCauseEnable byte))
  | 0x06 => .next (onBus s (writeFault byte))
  | 0x07 => .next (onBus s (writeFaultEnable byte))
  | 0x08 => .next (onBus s (writeThreshold byte))
  | 0x0A => .next (onBus s (writePtrLow byte))
  | 0x0B => .next (onBus s (writePtrHigh byte))
  | 0x0C => .next (onBus s (writeData byte))
  | 0x00 | 0x04 | 0x09 | 0x0D | 0x0E | 0x0F => .next (onBus s id)
  | n => .next (onBus s (writeStaging (n - 16) byte))

/-- REGISTER_WRITE (R180, R182): a write cycle that is not taken changes nothing, but that a cycle to be ignored is over. -/
def execRegisterWrite (cycle : WriteCycle) (loc : Location) (byte : Byte) (s : State) : Answer :=
  match cycle with
  | .taken => writeLocation loc byte s
  | .notSelected | .bothStrobes => .next (onBus s id)

end Sys2Proof.Machine
end

