-- ==== Sys2Proof/Machine/Dispatch.lean ====
section
/-! DEFINITION. The meaning of each command: one arm per row of spec/opcode_table.json. -/

namespace Sys2Proof.Machine

def exec (i : Instr) (s : State) : Host.Outcome State Fault Refusal :=
  match i with
  | .coldStart supply halfCycles => Sys2Proof.Machine.execColdStart supply halfCycles s
  | .mainPowerUp halfCycles => Sys2Proof.Machine.execMainPowerUp halfCycles s
  | .vmainFall vbackHolds => Sys2Proof.Machine.execVmainFall vbackHolds s
  | .resetNAssert => Sys2Proof.Machine.execResetNAssert s
  | .resetNRelease halfCycles => Sys2Proof.Machine.execResetNRelease halfCycles s
  | .tick ev order => Sys2Proof.Machine.execTick ev order s
  | .pulseEnd => Sys2Proof.Machine.execPulseEnd s
  | .occurrence => Sys2Proof.Machine.execOccurrence s
  | .txCharacterEnd ch => Sys2Proof.Machine.execTxCharacterEnd ch s
  | .txBreakTimeEnd ch => Sys2Proof.Machine.execTxBreakTimeEnd ch s
  | .txLeadEnd ch => Sys2Proof.Machine.execTxLeadEnd ch s
  | .rxFall ch fall => Sys2Proof.Machine.execRxFall ch fall s
  | .rxRise ch => Sys2Proof.Machine.execRxRise ch s
  | .markQualified ch => Sys2Proof.Machine.execMarkQualified ch s
  | .startBitSample ch level => Sys2Proof.Machine.execStartBitSample ch level s
  | .rxCharacterComplete ch data parityBit stopBit => Sys2Proof.Machine.execRxCharacterComplete ch data parityBit stopBit s
  | .gapExpiry ch => Sys2Proof.Machine.execGapExpiry ch s
  | .breakDetected ch => Sys2Proof.Machine.execBreakDetected ch s
  | .edgeGroup => Sys2Proof.Machine.execEdgeGroup s
  | .armRequestGroup => Sys2Proof.Machine.execArmRequestGroup s
  | .timeSnapshot => Sys2Proof.Machine.execTimeSnapshot s
  | .timeLoadCal => Sys2Proof.Machine.execTimeLoadCal s
  | .timeLoadCount => Sys2Proof.Machine.execTimeLoadCount s
  | .timeStep => Sys2Proof.Machine.execTimeStep s
  | .timeRun => Sys2Proof.Machine.execTimeRun s
  | .timeStop => Sys2Proof.Machine.execTimeStop s
  | .entryLoad => Sys2Proof.Machine.execEntryLoad s
  | .entryRead => Sys2Proof.Machine.execEntryRead s
  | .entryRelease => Sys2Proof.Machine.execEntryRelease s
  | .entryArmAt => Sys2Proof.Machine.execEntryArmAt s
  | .entryArmIn => Sys2Proof.Machine.execEntryArmIn s
  | .entryDisarm => Sys2Proof.Machine.execEntryDisarm s
  | .agendaClear => Sys2Proof.Machine.execAgendaClear s
  | .agendaCommandCompletion => Sys2Proof.Machine.execAgendaCommandCompletion s
  | .lineWrite => Sys2Proof.Machine.execLineWrite s
  | .lineRead => Sys2Proof.Machine.execLineRead s
  | .msgDefine => Sys2Proof.Machine.execMsgDefine s
  | .msgUndefine => Sys2Proof.Machine.execMsgUndefine s
  | .msgRead => Sys2Proof.Machine.execMsgRead s
  | .chConfig => Sys2Proof.Machine.execChConfig s
  | .chFrameConfig => Sys2Proof.Machine.execChFrameConfig s
  | .chSend => Sys2Proof.Machine.execChSend s
  | .chBreak => Sys2Proof.Machine.execChBreak s
  | .chAbort => Sys2Proof.Machine.execChAbort s
  | .chTxReset => Sys2Proof.Machine.execChTxReset s
  | .chRxReset => Sys2Proof.Machine.execChRxReset s
  | .chRead => Sys2Proof.Machine.execChRead s
  | .loopSet => Sys2Proof.Machine.execLoopSet s
  | .evConfig => Sys2Proof.Machine.execEvConfig s
  | .capPop => Sys2Proof.Machine.execCapPop s
  | .capFlush => Sys2Proof.Machine.execCapFlush s
  | .trigWrite => Sys2Proof.Machine.execTrigWrite s
  | .trigRead => Sys2Proof.Machine.execTrigRead s
  | .trigDisable => Sys2Proof.Machine.execTrigDisable s
  | .noticePop => Sys2Proof.Machine.execNoticePop s
  | .noticeFlush => Sys2Proof.Machine.execNoticeFlush s
  | .softReset => Sys2Proof.Machine.execSoftReset s
  | .unknownCommandCode code => Sys2Proof.Machine.execUnknownCommandCode code s
  | .resultRead cycle meet => Sys2Proof.Machine.execResultRead cycle meet s
  | .mmPtrLowWrite byte => Sys2Proof.Machine.execMmPtrLowWrite byte s
  | .mmPtrHighWrite byte => Sys2Proof.Machine.execMmPtrHighWrite byte s
  | .mmPtrLowRead cycle => Sys2Proof.Machine.execMmPtrLowRead cycle s
  | .mmDataRead cycle => Sys2Proof.Machine.execMmDataRead cycle s
  | .mmDataWrite byte => Sys2Proof.Machine.execMmDataWrite byte s
  | .capDataRead cycle => Sys2Proof.Machine.execCapDataRead cycle s
  | .faultWrite byte => Sys2Proof.Machine.execFaultWrite byte s
  | .faultEnableWrite byte => Sys2Proof.Machine.execFaultEnableWrite byte s
  | .causeEnableWrite byte => Sys2Proof.Machine.execCauseEnableWrite byte s
  | .noticeThresholdWrite byte => Sys2Proof.Machine.execNoticeThresholdWrite byte s
  | .registerWrite cycle loc byte => Sys2Proof.Machine.execRegisterWrite cycle loc byte s
  | .backupDomainLoss => Sys2Proof.Machine.execBackupDomainLoss s

end Sys2Proof.Machine
end

