-- ==== Sys2Proof/Machine/Step.lean ====
section
/-! DEFINITION. One step of the part (log 1): the command at the front of the queue is taken out and executed with the rest of
the queue; on an empty queue an oscillator period passes (R1, log 4). -/

namespace Sys2Proof.Machine

/-- One step. -/
def step (s : State) : Host.Outcome State Fault Refusal :=
  match s.pending with
  | [] => .next (oscillatorPeriod s)
  | c :: rest => exec c { s with pending := rest }

/-- The state with a command put at the front of its queue. -/
def State.withFront (s : State) (c : Instr) : State := { s with pending := c :: s.pending }

/-- The state with the command that a word spells put at the front of its queue; the table gives its rows no bits, so no word
spells one (log 24). -/
def State.withFetchWord (s : State) (nbits w : Nat) : State :=
  match decodeTableWord nbits w with
  | some c => s.withFront c
  | none => s

end Sys2Proof.Machine
end

