-- ==== Sys2Proof/Safety.lean ====
section
/-! DEFINITION. What statements about the part are said in: when the bus and the port take a command, what its completion
leaves, and the invariants of a sound state, each spelled out from the rules and not from the operations that keep it. -/

namespace Sys2Proof.Machine

/-! ## Commands -/

/-- The bus takes the next cycle (R183): the main domain is up and out of reset, and no cycle is still to be ignored. -/
abbrev State.busReady (s : State) : Prop :=
  s.power.vmainGood = true ∧ s.power.resetHigh = true ∧ s.power.skipCycles = 0

/-- The bus takes the next cycle and the command port is IDLE (R187). -/
abbrev State.portReady (s : State) : Prop := s.busReady ∧ s.au.inFlight = none

/-- The main domain is up and out of reset, so its blocks take their events (R18, R183). -/
abbrev State.mainUp (s : State) : Prop := s.power.vmainGood = true ∧ s.power.resetHigh = true

/-- A state in which a command has just completed with a result (R188). -/
def State.answered (s : State) (r : ResultCode) : State :=
  { s with biu := { s.biu with result := r, cmdDone := true } }

/-- The part after the main domain has been without power: everything of it at its reset values and the store's contents
lost, the Time Base and the supplies as given (R19, R38, R79, R93, R113, R132, R148, R163, R179, R193). -/
def State.powerLost (s : State) (tb : TimeBase) (power : Power) : State :=
  { State.reset with
    tb := tb, power := power, mm := MessageMemory.lost (s.mm.epoch + 1),
    hostRead := s.hostRead, gapDraws := s.gapDraws, idleTicks := s.idleTicks, pending := s.pending }

/-- The part after RESET_N or SOFT_RESET: the main domain at its reset values, but for the store and the descriptors, whose
busy counts are 0; the Time Base goes on (R19, R93, R192). -/
def State.mainReset (s : State) (power : Power) : State :=
  { State.reset with
    tb := s.tb, power := power,
    mm := { MessageMemory.lost s.mm.epoch with
            store := s.mm.store, directory := s.mm.directory.map fun d => { d with busy := 0 } },
    hostRead := s.hostRead, gapDraws := s.gapDraws, idleTicks := s.idleTicks, pending := s.pending }

/-- The channel's receiver hears its input: the main domain is up and the receiver enable on (R115). -/
abbrev State.hears (s : State) (ch : Channel) : Prop := s.mainUp ∧ (s.chan ch).config.rxEnable = true

/-- The input of a channel's receiver can stand at a level: with the cross-loop off its pin can stand at either, with it on the
input is what the other transmitter puts out, and within a character that can be either (R111). -/
def State.mayStandAt (s : State) (ch : Channel) (level : Bool) : Prop :=
  s.ser.loop = false ∨
  match (s.tx (otherChannel ch)).out with
  | .mark | .lead => level = true
  | .low => level = false
  | .char _ => True

/-- The input of a channel's receiver can stand at 1 where the receiver has come to: it can now, or the other transmitter's line
has fallen from a 1 with the first of what it carries, and the receiver has heard nothing of that yet (log 18). -/
def State.mayBeAtMark (s : State) (ch : Channel) : Prop :=
  s.mayStandAt ch true ∨ ((s.rx ch).place.heard = 0 ∧ (s.rx ch).place.before ≠ some 0)

/-- The bits on the other transmitter's line, from its beginning: a character's, or one character time of a break (R97, R98). -/
def State.lineCarries (s : State) (ch : Channel) (bits : List Bool) : Prop :=
  match (s.tx (otherChannel ch)).out with
  | .mark | .lead => False
  | .low => bits = List.replicate (s.chan (otherChannel ch)).config.charBits false
  | .char b => bits = (s.chan (otherChannel ch)).config.characterBits b

/-- The bits that a looped receiver's line fixes, of a transmitter that is not at rest: those of `lineCarries`, or the one bit of
mark of a lead (R98). -/
def State.lineShows (s : State) (ch : Channel) (bits : List Bool) : Prop :=
  s.ser.loop = true ∧ (s.lineCarries ch bits ∨ (s.tx (otherChannel ch)).out = .lead ∧ bits = [true])

/-- What a fall at a receiver's input begins, as the model keeps it (log 18), and the place on the line that the receiver then has:
nothing with the cross-loop off; with it on, the other transmitter's bits from its bit `k` on, which is at 0, follows a 1 and
begins at a moment that the receiver has not heard yet, with nothing that it has to hear before. -/
def State.fallBegins (s : State) (ch : Channel) (k : Nat) (heard : Option LoopHeard) (place : LinePlace) : Prop :=
  s.ser.loop = false ∧ heard = none ∧ place = (s.rx ch).place ∨
  s.ser.loop = true ∧ ∃ bits, s.lineCarries ch bits ∧ bits[k]? = some false ∧
    (if k = 0 then (s.rx ch).place.before ≠ some 0 else bits[k - 1]? = some true) ∧
    (s.rx ch).place.heard ≤ k * (2 * (s.chan (otherChannel ch)).config.divisor) ∧ fallIsNext s ch k = true ∧
    heard = some { bits := bits.drop k, divisor := (s.chan (otherChannel ch)).config.divisor, after := .carries 0 } ∧
    place = placePastFall s ch k

/-- The line falls with its bit `i`, at a moment that the receiver has not heard yet (R111). -/
def State.fallLeft (s : State) (ch : Channel) (i : Nat) : Prop :=
  s.ser.loop = true ∧ ∃ bits, s.lineCarries ch bits ∧ bits[i]? = some false ∧
    (if i = 0 then (s.rx ch).place.before ≠ some 0 else bits[i - 1]? = some true) ∧
    (s.rx ch).place.heard ≤ i * (2 * (s.chan (otherChannel ch)).config.divisor)

/-- A receiver that watches its input afresh, as it then stands (R115). The level known of it is the model's field (log 17), and so
is its place on the looped line, which no event has told (log 18). -/
def Receiver.afresh (input : Option Bool) (r : Receiver) : Receiver :=
  { r with markQualified := false, lowWatch := none, input := input,
           place := { r.place with whole := false, tracked := false } }

/-- With the cross-loop on, no bits of 1 that the other transmitter has on its line, with those the line ended with before them
(log 18), last for one of the receiver's bit times (R116). -/
def State.hasNoMark (s : State) (ch : Channel) : Prop :=
  ∃ bits before, s.lineShows ch bits ∧ (s.rx ch).place.before = some before ∧
    ∀ i n : Nat, (∀ j, i ≤ j → j < i + n → bits[j]? = some true) →
      ((if i = 0 then before else 0) + n) * (s.chan (otherChannel ch)).config.divisor < (s.chan ch).config.divisor

/-- A low at a receiver's input can have lasted one of its character times (R118): with the cross-loop on, the bits that the
other transmitter has put out since the fall (log 18) last that time, and none of them is a 1 before it is over, counted in
REFCLK periods over 16 (R94, R111). -/
def State.mayLastLow (s : State) (ch : Channel) (low : LowWatch) : Prop :=
  s.ser.loop = false ∨
  ∀ h, low.looped = some h →
    (s.chan ch).config.charBits * (s.chan ch).config.divisor ≤ h.bits.length * h.divisor ∧
    ∀ j : Nat, h.bits[j]? = some true → (s.chan ch).config.charBits * (s.chan ch).config.divisor ≤ j * h.divisor

/-- The input has stood at 0 since the start bit's fall for the whole character time (R117): with the cross-loop on, what the other
transmitter has put out since (log 18) is at 0 for that long; else every sample is 0 and no rise has ended the low of the start
bit. -/
def State.soundsAsBreak (s : State) (ch : Channel) (data : Byte) (parityBit stopBit : Bool) : Prop :=
  let c := s.chan ch
  (s.ser.loop = true ∧ ∃ h, c.rx.looped = some h ∧
    c.config.charBits * c.config.divisor ≤ h.bits.length * h.divisor ∧
    ∀ j : Nat, h.bits[j]? = some true → c.config.charBits * c.config.divisor ≤ j * h.divisor) ∨
  ((s.ser.loop = false ∨ c.rx.looped = none) ∧ stopBit = false ∧ c.config.dataOf data = 0 ∧
    (c.config.parity = .none ∨ parityBit = false) ∧ c.rx.lowWatch.map LowWatch.byStartBit = some true)

/-! ## Notices (R167) -/

/-- The time count and generation as they stand. -/
abbrev State.present (s : State) : Stamp := { count := s.tb.count, generation := s.tb.generation }

/-- The Notice and Interrupt Unit after notices have reached it in order at one time (R167): those that find a free place join
the tail; each of the others is lost, raising the lost count, which saturates at 255, and setting NOTICE_LOST. -/
def Notices.took (n : Notices) (stamp : Stamp) (bodies : List NoticeBody) : Notices :=
  let free := 32 - n.queue.length
  let lost := bodies.length - free
  { n with
    queue := n.queue ++ (bodies.take free).map fun body => { body := body, stamp := stamp }
    lost := if lost = 0 then n.lost else min (n.lost + lost) 255
    faults := if lost = 0 then n.faults else n.faults ||| 0x02 }

/-- ACTION_REFUSED is set where something was refused, and else is as it was (R173). -/
def Notices.refusing (n : Notices) (refused : Bool) : Notices :=
  if refused then { n with faults := n.faults ||| 0x20 } else n

/-- The transmitter of a channel has taken every tick there was, and the main domain is up. -/
abbrev State.sends (s : State) (ch : Channel) : Prop := s.mainUp ∧ (s.tx ch).tickOwed = false

/-- The head of the due list is overdue and will be taken (R48): the main domain is up and the Time Base RUNNING. -/
abbrev State.takes (s : State) (i : Fin 64) (rest : List (Fin 64)) : Prop :=
  s.mainUp ∧ s.tb.run = .running ∧ s.au.dueList = i :: rest ∧ s.au.slots[i].entry.due ≤ s.tb.count

/-- No block owes a tick (log 5). -/
abbrev State.ticksTaken (s : State) : Prop :=
  s.du.tickOwed = false ∧ (s.tx .a).tickOwed = false ∧ (s.tx .b).tickOwed = false

/-- A tick can still be on its way to a block (log 5): the row PULSE_END that takes it follows, or an occurrence that is taken at
it does (R71, R103). -/
abbrev State.ticksMayWait (s : State) : Prop :=
  s.pending.head? = some .pulseEnd ∨ s.pending.head? = some .occurrence ∧ ∃ i rest, s.takes i rest

/-- The part with no tick on its way to a block. -/
def State.owingNothing (s : State) : State :=
  { (s.withTx .a { s.tx .a with tickOwed := false }).withTx .b { s.tx .b with tickOwed := false } with
    du := { s.du with tickOwed := false } }

/-- A message's descriptor range and its bytes are as before (R87). -/
def State.sameMessage (s t : State) (m : Fin 32) : Prop :=
  t.mm.directory[m].offset = s.mm.directory[m].offset ∧ t.mm.directory[m].length = s.mm.directory[m].length ∧
    ∀ i, s.mm.directory[m].covers i = true → storeByte t.mm i = storeByte s.mm i

/-- The transmitter has just begun the head of its queue, with a lead or without (R98, R103, R104): IDLE at mark on an empty
queue, else the head's first character, its first character time at 0, or the lead. -/
def Transmitter.hasBegun (t : Transmitter) (mm : MessageMemory) (lead : Bool) : Prop :=
  t.byteIndex = 0 ∧ t.elapsed = 0 ∧
  match t.queue with
  | [] => t.state = .idle ∧ t.out = .mark ∧ t.breakRemaining = 0
  | .send m _ _ :: _ =>
    t.state = .sending ∧ t.breakRemaining = 0 ∧
      t.out = (if lead then .lead else .char (storeByte mm mm.directory[m].offset))
  | .brk n :: _ => t.state = .breaking ∧ t.breakRemaining = n ∧ t.out = (if lead then .lead else .low)

/-- The receiver after the end of a frame (R121, R125): the frame's parts are cleared. -/
def Receiver.cleared (r : Receiver) (next : RxState) : Receiver :=
  { r with state := next, frame := .none, noted := none, chars := 0, flags := { parity := false, framing := false },
           gap := 0, startConfirmed := false }

/-- What the Trigger Unit finds at the close of a record for a rule that matches it (R156): why the rule misses, or nothing
where it makes an arm request. -/
def State.missAtClose (s : State) (r : CaptureRecord) (k : Fin 8) : Option MissReason :=
  if r.stamp.generation ≠ s.tb.generation then some .staleTime
  else if Config.endTime < r.stamp.count + s.tu.rules[k].delay then some .outOfRange
  else none

/-- A record has closed (R139, R140): it stands at the tail of the capture queue with the rules that match it in ascending order
(R155); those that do not miss make one group of current arm requests in rule order (R156, R157); the others miss, each with
its miss flag and its notice in rule order, and ACTION_REFUSED (R160). Nothing else of the Trigger Unit or the Notice and
Interrupt Unit changes. -/
def State.recordClosed (s t : State) (r : CaptureRecord) : Prop :=
  ∃ rules : List (Fin 8), rules.Pairwise (fun j k => j < k) ∧ (∀ k, k ∈ rules ↔ ruleMatches s r k = true) ∧
    t.cu.queue = s.cu.queue ++ [{ r with matched := rules }] ∧
    ∀ (requests : List ArmRequest) (misses : List NoticeBody),
      requests = ((rules.filter fun k => (s.missAtClose r k).isNone).map fun k =>
        { rule := k, slot := s.tu.rules[k].target, due := r.stamp.count + s.tu.rules[k].delay, current := true }) →
      misses = (rules.filterMap fun k =>
        (s.missAtClose r k).map fun reason => .triggerMiss k s.tu.rules[k].target reason) →
      t.tu = { s.tu with answers := s.tu.answers ++ (if requests = [] then [] else [requests]), rules := t.tu.rules } ∧
      (∀ k : Fin 8, t.tu.rules[k] = { (s.tu.rules[k] : Rule) with
        miss := (s.tu.rules[k] : Rule).miss || (decide (k ∈ rules) && (s.missAtClose r k).isSome) }) ∧
      t.niu = (s.niu.refusing (decide (misses ≠ []))).took s.present misses

/-- The open record `r` of a channel has closed with a cause (R125, R139): it is closed with the receiver's flags, its own
length, TRUNCATED flag and bytes as they were, and nothing else of the Capture Unit has changed. -/
def State.frameClosed (s t : State) (ch : Channel) (r : CaptureRecord) (cause : EndCause) : Prop :=
  s.recordClosed t { r with
    endCause := some cause
    flags := { parity := (s.rx ch).flags.parity, framing := (s.rx ch).flags.framing, brk := decide (cause = .brk),
               truncated := r.flags.truncated } } ∧
  t.cu.opened.get ch = none ∧ t.cu.opened.get (otherChannel ch) = s.cu.opened.get (otherChannel ch) ∧
  t.cu.rings = s.cu.rings ∧ t.cu.window = s.cu.window ∧ t.cu.readIndex = s.cu.readIndex ∧ t.cu.dropped = s.cu.dropped ∧
  t.cu.droppedEv = s.cu.droppedEv

/-- What reception never touches: everything but the receiver of one channel, the Capture Unit, the Trigger Unit and the
notices and faults. -/
def State.sameButReception (s t : State) (ch : Channel) : Prop :=
  t = { s with ser := t.ser, cu := t.cu, tu := t.tu, niu := t.niu } ∧
  t.ser = { s.ser with chans := s.ser.chans.set ch { s.chan ch with rx := t.rx ch } }

/-- A command that the host issues by a write to COMMAND (R196): its code names one, and it completes at once. -/
def completesAtOnce (code : Byte) : Bool :=
  commandCodes.contains code && !([0x20, 0x21, 0x22, 0x23, 0x24, 0x25, 0x26, 0xA5] : List Byte).contains code

/-- Request number `k` of a group hits (R61, R62): its slot is HELD, and no request before it in the group names that slot. -/
def State.hits (s : State) (g : List ArmRequest) (k : Nat) : Bool :=
  match g[k]? with
  | none => false
  | some q => decide (s.au.slots[q.slot].state = .held) && !((g.take k).any fun p => p.slot == q.slot)

/-! ## What a page shows (R194, R196) -/

/-- The byte at a location by a table of fields: each with its first location, its bytes and its value, least significant byte
first; 0 where no field stands. -/
def fieldByte : List (Nat × Nat × Nat) → Nat → Byte
  | [], _ => 0
  | (first, bytes, value) :: rest, loc =>
    if first ≤ loc ∧ loc < first + bytes then BitVec.ofNat 8 (value / 256 ^ (loc - first)) else fieldByte rest loc

/-- Every location of the paged region reads as a table of fields says. -/
def State.pageShows (s : State) (fields : List (Nat × Nat × Nat)) : Prop :=
  ∀ loc : Location, 16 ≤ loc.toNat → s.readLocation loc = fieldByte fields loc.toNat

/-- The number whose bit n is the n-th of a list. -/
def bitsValue : List Bool → Nat
  | [] => 0
  | b :: rest => (if b then 1 else 0) + 2 * bitsValue rest

/-- The occurrence flags (R194). -/
def occurrenceBits (refused : Option RefuseReason) (chainRefused : Bool) : Nat :=
  bitsValue [refused.isSome, chainRefused] + 4 * refused.elim 0 fun r => r.code.toNat

/-- The result window (R196). -/
def entryFields (w : ResultWindow) : List (Nat × Nat × Nat) :=
  let e := w.image.entry
  [(0x10, 1, w.slot.val), (0x11, 1, w.image.state.code.toNat), (0x12, 6, e.due), (0x18, 4, e.period), (0x1C, 2, e.repeats),
   (0x1E, 2, e.remaining), (0x20, 2, e.tolerance), (0x22, 1, e.setMask.toNat), (0x23, 1, e.clearMask.toNat),
   (0x24, 2, e.pulseWidth), (0x26, 1, e.message.elim 255 Fin.val), (0x27, 1, (channelCode e.channel).toNat),
   (0x28, 1, bitsValue [e.notify.onFire, e.notify.onMiss, e.notify.onSpent, e.notify.onTxEnd]),
   (0x29, 1, e.chainTarget.elim 255 Fin.val), (0x2A, 2, e.chainDelay), (0x2C, 2, e.fired), (0x2E, 2, e.missed),
   (0x3C, 1, e.spent.elim 0 fun r => r.code.toNat)] ++
  match e.last with
  | none => []
  | some o =>
    [(0x30, 1, 1), (0x31, 6, o.due), (0x37, 2, o.lateness), (0x3B, 1, o.generation.toNat)] ++
    match o.outcome with
    | .performed refused chainRefused => [(0x39, 1, 1), (0x3A, 1, occurrenceBits refused chainRefused)]
    | .missed => [(0x39, 1, 2)]

/-- The snapshot latch (R196). -/
def timeFields (l : Latch) : List (Nat × Nat × Nat) :=
  [(0x10, 6, l.stamp.count), (0x16, 1, l.stamp.generation.toNat), (0x17, 1, if l.run = .running then 1 else 0),
   (0x18, 2, l.date.year), (0x1A, 1, l.date.month), (0x1B, 1, l.date.day), (0x1C, 1, l.weekday), (0x1D, 1, l.date.hour),
   (0x1E, 1, l.date.minute), (0x1F, 1, l.date.second), (0x20, 2, l.date.fraction)]

/-- The channel copy (R112, R128, R196). -/
def channelFields (c : ChannelCopy) : List (Nat × Nat × Nat) :=
  [(0x10, 1, (channelCode c.channel).toNat), (0x11, 2, c.config.divisor), (0x13, 1, c.config.dataBits.code.toNat),
   (0x14, 1, c.config.parity.code.toNat), (0x15, 1, c.config.stopBits.code.toNat),
   (0x16, 1, bitsValue [c.config.txEnable, c.config.rxEnable]), (0x17, 1, bitsValue [c.loop]),
   (0x18, 1, c.txState.code.toNat), (0x19, 1, c.queued), (0x23, 1, c.rxState.code.toNat), (0x24, 1, c.frame.code.toNat),
   (0x25, 2, c.chars), (0x27, 1, bitsValue [c.flags.parity, c.flags.framing]), (0x28, 1, c.gap),
   (0x29, 1, bitsValue [c.markQualified]), (0x2A, 1, c.rules.gap), (0x2B, 1, bitsValue [c.rules.terminator.isSome]),
   (0x2C, 1, c.rules.terminator.elim 0 BitVec.toNat), (0x2D, 2, c.rules.maxLength),
   (0x2F, 1, c.rising.toNat + 16 * c.falling.toNat),
   (0x30, 1, bitsValue (c.samples.toList.map fun x => x == some true) +
     16 * bitsValue (c.samples.toList.map Option.isSome))] ++
  match c.head.request with
  | none => []
  | some (.send m source notify) =>
    [(0x1A, 1, 1), (0x1B, 1, m.val), (0x1C, 1, source.code.toNat), (0x1D, 1, bitsValue [notify]),
     (0x1E, 1, c.head.byteIndex), (0x21, 2, c.head.elapsed)]
  | some (.brk n) => [(0x1A, 1, 2), (0x1C, 1, 64), (0x1F, 1, n), (0x20, 1, c.head.breakRemaining), (0x21, 2, c.head.elapsed)]

/-- The descriptor copy (R196). -/
def messageFields (c : DescriptorCopy) : List (Nat × Nat × Nat) :=
  [(0x10, 1, c.message.val), (0x11, 1, bitsValue [c.descriptor.defined]), (0x12, 2, c.descriptor.offset),
   (0x14, 2, c.descriptor.length), (0x16, 1, c.descriptor.busy)]

/-- The rule copy (R196). -/
def triggerFields (c : RuleCopy) : List (Nat × Nat × Nat) :=
  [(0x10, 1, c.number.val), (0x11, 1, bitsValue [c.rule.enabled]), (0x12, 1, c.rule.source.code.toNat),
   (0x13, 1, c.rule.prefixBytes.length), (0x14, 1, (c.rule.prefixBytes.getD 0 0).toNat),
   (0x15, 1, (c.rule.prefixBytes.getD 1 0).toNat), (0x16, 1, (c.rule.prefixBytes.getD 2 0).toNat),
   (0x17, 1, (c.rule.prefixBytes.getD 3 0).toNat), (0x18, 1, c.rule.target.val), (0x19, 2, c.rule.delay),
   (0x1B, 1, bitsValue [c.rule.oneShot]), (0x1C, 1, bitsValue [c.rule.miss])]

/-- The read window (R144, R196). -/
def captureFields : Option CaptureRecord → List (Nat × Nat × Nat)
  | none => []
  | some r =>
    [(0x10, 1, 1), (0x13, 6, r.stamp.count), (0x19, 1, r.stamp.generation.toNat), (0x1A, 2, r.length),
     (0x1C, 1, bitsValue [r.flags.parity, r.flags.framing, r.flags.brk, r.flags.truncated]),
     (0x1D, 1, r.endCause.elim 0 fun c => c.code.toNat),
     (0x1F, 1, bitsValue (([0, 1, 2, 3, 4, 5, 6, 7] : List (Fin 8)).map fun k => decide (k ∈ r.matched)))] ++
    match r.source with
    | .frame ch => [(0x11, 1, 1), (0x12, 1, (channelCode ch).toNat)]
    | .edge n dir => [(0x11, 1, 2), (0x12, 1, 2 + n.val), (0x1E, 1, if dir = .rising then 1 else 2)]

/-- The notice copy (R164, R169, R196). -/
def noticeFields : Option Notice → List (Nat × Nat × Nat)
  | none => []
  | some n =>
    [(0x16, 6, n.stamp.count), (0x1C, 1, n.stamp.generation.toNat)] ++
    match n.body with
    | .fired i lateness refused chainRefused =>
      [(0x10, 1, 1), (0x11, 1, i.val), (0x1D, 2, lateness), (0x1F, 1, occurrenceBits refused chainRefused)]
    | .missed i consumed => [(0x10, 1, 2), (0x11, 1, i.val), (0x1D, 2, consumed)]
    | .spent i reason => [(0x10, 1, 3), (0x11, 1, i.val), (0x1D, 2, reason.code.toNat)]
    | .txDone ch m source ticks =>
      [(0x10, 1, 4), (0x12, 1, (channelCode ch).toNat), (0x13, 1, m.val), (0x14, 1, source.code.toNat), (0x1D, 2, ticks)]
    | .txAborted ch m source sent =>
      [(0x10, 1, 5), (0x12, 1, (channelCode ch).toNat), (0x13, 1, m.val), (0x14, 1, source.code.toNat), (0x1D, 2, sent)]
    | .triggerMiss k i reason =>
      [(0x10, 1, 6), (0x11, 1, i.val), (0x15, 1, k.val), (0x1D, 2, reason.code.toNat)]

/-- The line copy (R78, R196). -/
def lineFields (lines : Vector Line 8) : List (Nat × Nat × Nat) :=
  let ls := lines.toList
  [(0x10, 1, bitsValue (ls.map Line.level)), (0x11, 1, bitsValue (ls.map Line.driven)),
   (0x12, 1, bitsValue (ls.map fun l => l.pending.isSome)),
   (0x13, 1, bitsValue (ls.map fun l => l.pending.elim false PendingReturn.level))] ++
  (ls.zipIdx.map fun p => (0x14 + 2 * p.2, 2, p.1.pending.elim 0 PendingReturn.remaining)) ++
  (ls.zipIdx.map fun p => (0x24 + p.2, 1, p.1.source.code.toNat))

/-! ## Invariants -/

/-- The time count never exceeds END, and the phase is 0..7 (R1, R2). -/
abbrev TimeSound (s : State) : Prop := s.tb.count ≤ Config.endTime ∧ s.tb.phase ≤ 7

/-- An entry that may wait on the due list: its due time is at most END, and with a nonzero repeat it has an occurrence
remaining (R40, R41). -/
abbrev Entry.armable (e : Entry) : Prop := e.due ≤ Config.endTime ∧ (e.repeats ≠ 0 → 1 ≤ e.remaining)

/-- Slot `i` is due before slot `j`, or at the same time with a lower number (R39). -/
abbrev DueBefore (slots : Vector Slot 64) (i j : Fin 64) : Prop :=
  slots[i].entry.due < slots[j].entry.due ∨ (slots[i].entry.due = slots[j].entry.due ∧ i < j)

/-- The agenda is sound: a slot is on the due list if and only if it is ARMED, and once only (R20), the list is in its order
(R39), what is ARMED or HELD may be armed (R40, R41), FREE slots hold the FREE image (R22), the spent reason is present in
SPENT alone (R24), no entry chains to itself (R29), and every arm request on its way is within END (R61). -/
structure AgendaSound (s : State) : Prop where
  ordered : s.au.dueList.Pairwise (DueBefore s.au.slots)
  listed : ∀ i : Fin 64, i ∈ s.au.dueList ↔ s.au.slots[i].state = .armed
  armed : ∀ i : Fin 64, s.au.slots[i].state = .armed → s.au.slots[i].entry.armable
  held : ∀ i : Fin 64, s.au.slots[i].state = .held → s.au.slots[i].entry.armable
  freed : ∀ i : Fin 64, s.au.slots[i].state = .free → s.au.slots[i].entry = Entry.freeImage
  spent : ∀ i : Fin 64, s.au.slots[i].state = .spent ↔ s.au.slots[i].entry.spent.isSome = true
  unchained : ∀ i : Fin 64, s.au.slots[i].entry.chainTarget ≠ some i
  requests : ∀ g ∈ s.tu.answers, ∀ q ∈ g, q.due ≤ Config.endTime

/-- A SEND of message `m`. -/
def Request.names (m : Fin 32) : Request → Bool
  | .send m' _ _ => m' == m
  | .brk _ => false

/-- How many SEND requests naming a message stand in the two transmit queues (R80). -/
def State.requestsFor (s : State) (m : Fin 32) : Nat :=
  ((s.tx .a).queue.filter (Request.names m)).length + ((s.tx .b).queue.filter (Request.names m)).length

/-- A transmit queue is sound: at most 8 requests (R99), IDLE exactly with an empty queue (R103), and empty while the
transmitter is off (R100). -/
structure QueueSound (c : SerialChannel) : Prop where
  depth : c.tx.queue.length ≤ Config.queueDepth
  idle : c.tx.state = .idle ↔ c.tx.queue = []
  off : c.config.txEnable = false → c.tx.queue = []

/-- The messages are sound: every busy count equals the number of requests naming the message (R85), a busy message is
defined, a defined message's range lies in the store (R80), and an undefined one has offset and length 0. -/
structure MessagesSound (s : State) : Prop where
  queueA : QueueSound (s.chan .a)
  queueB : QueueSound (s.chan .b)
  busy : ∀ m : Fin 32, s.mm.directory[m].busy = s.requestsFor m
  defined : ∀ m : Fin 32, 0 < s.mm.directory[m].busy → s.mm.directory[m].defined = true
  range : ∀ m : Fin 32, s.mm.directory[m].defined = true →
    1 ≤ s.mm.directory[m].length ∧ s.mm.directory[m].length ≤ 256 ∧
      s.mm.directory[m].offset + s.mm.directory[m].length ≤ Config.storeSize
  undefined : ∀ m : Fin 32, s.mm.directory[m].defined = false →
    s.mm.directory[m].offset = 0 ∧ s.mm.directory[m].length = 0

/-- The bytes that the records of a channel hold in its ring: those of a list of records. -/
def heldBy (ch : Channel) (records : List CaptureRecord) : Nat :=
  (records.map fun r => if r.source = .frame ch then r.length else 0).sum

/-- The records of a channel lie one behind the other in its ring, the first at place `p` (R135, R137). -/
def lieInOrder (ch : Channel) : Nat → List CaptureRecord → Prop
  | _, [] => True
  | p, r :: rest =>
    (r.source = .frame ch → r.place = p % Config.ringSize) ∧
      lieInOrder ch (if r.source = .frame ch then p + r.length else p) rest

/-- The records that hold bytes of a channel's ring, the oldest first: the read-window record, the closed records in the order of
the queue, the open record (R134). -/
def State.ringRecords (s : State) (ch : Channel) : List CaptureRecord :=
  s.cu.window.toList ++ s.cu.queue ++ (s.cu.opened.get ch).toList

/-- One channel's captures are sound: an open record exactly while the receiver's frame is OPEN, it is of that channel, no frame
is in hand in IDLE or BREAK (R114), and the ring holds exactly the bytes of the channel's open record, its closed records and
the read-window record (R134), one behind the other from its oldest place on (R137). -/
structure ChannelCaptureSound (s : State) (ch : Channel) : Prop where
  opened : (s.rx ch).frame = .opened ↔ (s.cu.opened.get ch).isSome = true
  unframed : (s.rx ch).state = .idle ∨ (s.rx ch).state = .brk → (s.rx ch).frame = .none
  source : ∀ r, s.cu.opened.get ch = some r → r.source = .frame ch
  ring : (s.cu.rings.get ch).held.length = heldBy ch (s.ringRecords ch)
  start : (s.cu.rings.get ch).start < Config.ringSize
  places : lieInOrder ch (s.cu.rings.get ch).start (s.ringRecords ch)
  ringSize : (s.cu.rings.get ch).held.length ≤ Config.ringSize
  dropped : s.cu.dropped.get ch ≤ 255

/-- The Capture Unit is sound: open and closed records never exceed 32 (R134), the dropped counts saturate at 255 (R136), and
each channel's captures are sound. -/
structure CaptureSound (s : State) : Prop where
  slots : s.cu.opened.a.toList.length + s.cu.opened.b.toList.length + s.cu.queue.length ≤ Config.captureSlots
  droppedEv : s.cu.droppedEv ≤ 255
  channelA : ChannelCaptureSound s .a
  channelB : ChannelCaptureSound s .b

/-- The Notice and Interrupt Unit is sound: at most 32 notices (R166), a saturating lost count (R171), a threshold of 1 to 32
(R170). -/
abbrev NoticesSound (s : State) : Prop :=
  s.niu.queue.length ≤ Config.noticeDepth ∧ s.niu.lost ≤ 255 ∧ 1 ≤ s.niu.threshold ∧ s.niu.threshold ≤ 32

/-- The store is in its canonical form. -/
abbrev StoreSound (s : State) : Prop := Memory.wf s.mm.store

/-- The lines are sound: a pending return has a tick remaining, since the tick that brings it to 0 ends it (R72). -/
abbrev LinesSound (s : State) : Prop := ∀ n : Fin 8, ∀ r, s.du.lines[n].pending = some r → 1 ≤ r.remaining

/-- The supplies are sound: VMAIN good holds the backup domain (R18); while the main domain is down or held in reset, every
block of it stands at its reset values (R38, R79, R113, R132, R148, R163, R179, R193), the Message Memory but for its store
and its descriptors, whose busy counts are 0 (R93); and a block owes a tick only while it may (R71, R103, log 5). -/
structure PowerSound (s : State) : Prop where
  ticks : s.ticksTaken ∨ s.ticksMayWait
  backup : s.power.vmainGood = true → s.power.backupHeld = true
  down : ¬ s.mainUp → s.biu = .reset ∧ s.au = .reset ∧ s.du = .reset ∧ s.ser = .reset ∧ s.evi = .reset ∧ s.cu = .reset ∧
    s.tu = .reset ∧ s.niu = .reset ∧
    s.mm = { MessageMemory.lost s.mm.epoch with store := s.mm.store, directory := s.mm.directory } ∧
    ∀ m : Fin 32, s.mm.directory[m].busy = 0

end Sys2Proof.Machine
end

