-- ==== Sys2Proof/Certificates/Slice0/Obligations.lean ====
section
/-! DEFINITION. The statements for the provers. Each says what a command or the part does by the rules of spec/, spelled out
from the rule's words where that is possible, and what else of the state it leaves as it was. -/

open Sys2Proof Sys2Proof.Machine

/-! ## The queue of commands -/

/-- The front of the queue is what a step executes, with the rest of the queue left in the state. -/
def Obligations.StepRunsFrontCommand : Prop :=
  ∀ (c : Instr) (rest : List Instr) (s : State), s.pending = c :: rest → step s = exec c { s with pending := rest }

/-- The model's own choice (log 4): with no command waiting, an oscillator period of R1 passes. At the pass of the phase from 7 to
0 it issues a tick, as a TICK with no period before it would, whose levels and orders are free values (log 4). -/
def Obligations.IdleStepIsOneOscillatorPeriod : Prop :=
  ∀ s : State, s.pending = [] →
    (s.power.backupHeld = false → step s = .next s) ∧
    (s.power.backupHeld = true → s.tb.phase < 7 →
      step s = .next { s with tb := { s.tb with phase := s.tb.phase + 1 } }) ∧
    (s.power.backupHeld = true → 7 ≤ s.tb.phase → ∃ (ev : BitVec 4) (order : TickOrder), order.waited = 0 ∧
      step s = exec (.tick ev order) { s with idleTicks := s.idleTicks + 1 })

/-- No command stops the part, and none touches the queue of those that wait. -/
def Obligations.EveryCommandAnswersNext : Prop :=
  ∀ (c : Instr) (s : State), ∃ t, exec c s = .next t ∧ t.pending = s.pending

/-! ## Supplies and resets -/

/-- What the host reads of the common region after a cold start (R193, R19, R179). -/
def Obligations.ColdStartCommonRegion : Prop :=
  State.reset.readLocation 0x00 = 0 ∧ State.reset.readLocation 0x01 = 0 ∧ State.reset.readLocation 0x02 = 0 ∧
  State.reset.readLocation 0x03 = 0xFF ∧ State.reset.readLocation 0x04 = 0 ∧ State.reset.readLocation 0x05 = 0 ∧
  State.reset.readLocation 0x06 = 0 ∧ State.reset.readLocation 0x07 = 0 ∧ State.reset.readLocation 0x08 = 0 ∧
  State.reset.readLocation 0x09 = 0 ∧ State.reset.readLocation 0x0A = 0 ∧ State.reset.readLocation 0x0B = 0 ∧
  State.reset.readLocation 0x0D = 0 ∧ State.reset.readLocation 0x0E = 0 ∧ State.reset.readLocation 0x0F = 0 ∧
  State.reset.irqAsserted = false ∧ (∀ n, State.reset.dlPin n = none) ∧
  State.reset.txPin .a = some .mark ∧ State.reset.txPin .b = some .mark

/-- The supplies and RESET_N (R18, R183, and the reset values of R19, R38, R79, R93, R113, R132, R148, R163, R179, R193). -/
def Obligations.SuppliesAndResetPin : Prop :=
  ∀ s : State,
    (∀ supply n, exec (.coldStart supply n) s =
      .next (s.powerLost State.reset.tb
        { vmainGood := decide (supply = .vmain), backupHeld := true, resetHigh := s.power.resetHigh, skipCycles := n })) ∧
    (∀ n, exec (.mainPowerUp n) s =
      .next (s.powerLost (if s.power.backupHeld then s.tb else State.reset.tb)
        { vmainGood := true, backupHeld := true, resetHigh := s.power.resetHigh, skipCycles := n })) ∧
    (∀ held, s.power.vmainGood = true → exec (.vmainFall held) s =
      .next (s.powerLost (if held then s.tb else State.reset.tb)
        { vmainGood := false, backupHeld := held, resetHigh := s.power.resetHigh, skipCycles := 0 })) ∧
    (s.power.vmainGood = false → exec .backupDomainLoss s =
      .next { s with tb := State.reset.tb, power := { s.power with backupHeld := false } }) ∧
    exec .resetNAssert s = .next (s.mainReset { s.power with resetHigh := false, skipCycles := 0 }) ∧
    (∀ n, s.power.resetHigh = false → exec (.resetNRelease n) s =
      .next { s with power := { s.power with resetHigh := true, skipCycles := n } })

/-- SOFT_RESET (R192): in IDLE the same effect as RESET_N held low and released, with no completion; in BUSY no reset takes
place. -/
def Obligations.SoftResetActsAsResetPin : Prop :=
  ∀ s : State,
    (s.portReady → ∃ low t, exec .resetNAssert s = .next low ∧ exec (.resetNRelease 0) low = .next t ∧
      exec .softReset s = .next t ∧ t = s.mainReset s.power ∧
      t.tb = s.tb ∧ t.mm.store = s.mm.store ∧ t.biu = { page := 0, arg := 0, result := .reset, cmdDone := false } ∧
      t.au.inFlight = none ∧ t.niu.queue = [] ∧ t.niu.faults = 0 ∧
      ∀ m : Fin 32, t.mm.directory[m] = { s.mm.directory[m] with busy := 0 }) ∧
    (s.busReady → s.au.inFlight.isSome = true → exec .softReset s =
      .next { s with niu := { s.niu with faults := s.niu.faults ||| 1 } })

/-! ## Time Base -/

/-- The tick (R1 to R3): where the oscillator periods that pass take the phase from 7 to 0, the Time Base takes the tick, whatever
the order in which the other blocks take it; the fault flags change by TIME_END alone, and what no tick reaches is as before.
Where they do not, as after a time load in between (R16), the phase alone changes. How many periods pass is an operand of the
model (log 4). -/
def Obligations.TickMovesTheCount : Prop :=
  ∀ (s : State) (ev : BitVec 4) (order : TickOrder), s.power.backupHeld = true →
    (s.tb.phase + order.waited.val + 1 < 8 → exec (.tick ev order) s =
      .next { s with tb := { s.tb with phase := s.tb.phase + order.waited.val + 1 } }) ∧
    (8 ≤ s.tb.phase + order.waited.val + 1 → ∃ t, exec (.tick ev order) s = .next t ∧
      t.tb =
        (if s.tb.run = .running then
          if s.tb.count = Config.endTime then { s.tb with run := .stopped, phase := 0 }
          else { s.tb with count := s.tb.count + 1, phase := 0 }
        else { s.tb with phase := 0 }) ∧
      t.niu =
        (if s.tb.run = .running ∧ s.tb.count = Config.endTime ∧ s.mainUp then
          { s.niu with faults := s.niu.faults ||| 0x10 } else s.niu) ∧
      t.power = s.power ∧ t.biu = s.biu ∧ t.au = s.au ∧ t.mm = s.mm ∧ t.cu = s.cu ∧ t.tu = s.tu ∧
      t.hostRead = s.hostRead ∧ t.gapDraws = s.gapDraws ∧ t.idleTicks = s.idleTicks ∧
      (¬ s.mainUp → t.du = s.du ∧ t.ser = s.ser ∧ t.evi = s.evi))

/-- A tick at the Dispatch Unit and the transmitters: each pending return counts down by one (R71), and the one it brings to 0
ends there, with the line at its return level (R72); a transmitter's elapsed-tick count rises while it holds a request (R103).
A tick reaches one of them late only where an occurrence that is taken at it, or its PULSE_END, follows in the queue, and is
counted once: at the PULSE_END, or in the event of the last such occurrence, whose returns and requests it counts for (R71,
R103; the operands and the queue are the model's, logs 5 and 6). -/
def Obligations.TickCountsPulsesAndTransmissions : Prop :=
  (∀ (s : State) (ev : BitVec 4) (order : TickOrder), s.power.backupHeld = true → s.mainUp →
    8 ≤ s.tb.phase + order.waited.val + 1 →
    ∃ t, exec (.tick ev order) s = .next t ∧
      (¬ t.ticksMayWait → t.ticksTaken ∧
        exec (.tick ev { order with lateDu := false, lateTxA := false, lateTxB := false }) s = .next t) ∧
      (order.lateDu = false → s.du.tickOwed = false → ∀ n : Fin 8,
        t.du.lines[n].driven = s.du.lines[n].driven ∧ t.du.lines[n].source = s.du.lines[n].source ∧
        (s.du.lines[n].pending = none → t.du.lines[n] = s.du.lines[n]) ∧
        (∀ v r, s.du.lines[n].pending = some { level := v, remaining := r } → r ≤ 1 →
          t.du.lines[n].level = v ∧ t.du.lines[n].pending = none) ∧
        (∀ v r, s.du.lines[n].pending = some { level := v, remaining := r } → 2 ≤ r →
          t.du.lines[n].level = s.du.lines[n].level ∧
          t.du.lines[n].pending = some { level := v, remaining := r - 1 })) ∧
      (∀ ch, (if ch = .a then order.lateTxA else order.lateTxB) = false → s.sends ch →
        t.tx ch = { s.tx ch with
          elapsed := if (s.tx ch).queue = [] then (s.tx ch).elapsed else min ((s.tx ch).elapsed + 1) 65535 }) ∧
      (∀ ch, t.rx ch = s.rx ch ∧ (t.chan ch).config = (s.chan ch).config) ∧ t.ser.loop = s.ser.loop ∧
      t.ser.staging = s.ser.staging ∧ t.ser.copy = s.ser.copy ∧ t.du.staging = s.du.staging ∧ t.du.copy = s.du.copy ∧
      (order.lateDu = false → ∃ late, exec (.tick ev { order with lateDu := true }) s = .next late ∧
        exec .pulseEnd late = exec .pulseEnd t) ∧
      (order.lateTxA = false → ∃ late, exec (.tick ev { order with lateTxA := true }) s = .next late ∧
        ∀ c ∈ [Instr.txCharacterEnd .a, .txBreakTimeEnd .a, .txLeadEnd .a], exec c late = exec c t) ∧
      (order.lateTxB = false → ∃ late, exec (.tick ev { order with lateTxB := true }) s = .next late ∧
        ∀ c ∈ [Instr.txCharacterEnd .b, .txBreakTimeEnd .b, .txLeadEnd .b], exec c late = exec c t)) ∧
  ∀ (s v : State) (i : Fin 64) (rest : List (Fin 64)), s.takes i rest → exec .occurrence s.owingNothing = .next v →
    ∃ t, exec .occurrence s = .next t ∧
      (t.ticksMayWait → t.du = { v.du with tickOwed := s.du.tickOwed } ∧
        ∀ ch, t.tx ch = { v.tx ch with tickOwed := (s.tx ch).tickOwed }) ∧
      (¬ t.ticksMayWait → t.du = (if s.du.tickOwed then v.du.takeTick else v.du) ∧
        ∀ ch, t.tx ch = (if (s.tx ch).tickOwed then (v.tx ch).takeTick else v.tx ch)) ∧
      (∀ ch, t.rx ch = v.rx ch ∧ (t.chan ch).config = (v.chan ch).config) ∧ t.ser.loop = v.ser.loop ∧
      t.ser.staging = v.ser.staging ∧ t.ser.copy = v.ser.copy ∧ t = { v with du := t.du, ser := t.ser }

/-- The event inputs at a tick (R129): every line is sampled; an edge is found on a line whose last sample is present and
differs, and where its enable for that direction is on it waits in the tick's group, the edges in line order. -/
def Obligations.TickSamplesTheEventInputs : Prop :=
  ∀ (s : State) (ev : BitVec 4) (order : TickOrder), s.power.backupHeld = true → s.mainUp →
    8 ≤ s.tb.phase + order.waited.val + 1 →
    ∃ t group, exec (.tick ev order) s = .next t ∧
      (∀ n : Fin 4, t.evi.last[n] = some (ev.getLsbD n.val)) ∧
      t.evi.rising = s.evi.rising ∧ t.evi.falling = s.evi.falling ∧
      t.evi.found = s.evi.found ++ group ∧
      (∀ n d, (∃ g ∈ group, (n, d) ∈ g.edges) ↔
        (d = .rising ∧ s.evi.last[n] = some false ∧ ev.getLsbD n.val = true ∧ s.evi.rising.getLsbD n.val = true) ∨
        (d = .falling ∧ s.evi.last[n] = some true ∧ ev.getLsbD n.val = false ∧ s.evi.falling.getLsbD n.val = true)) ∧
      group.length ≤ 1 ∧
      ∀ g ∈ group, g.edges.Pairwise (fun x y => x.1 < y.1) ∧
        g.stamp = (if order.edgeStampBefore then { count := s.tb.count, generation := s.tb.generation }
          else { count := t.tb.count, generation := t.tb.generation })

/-- TIME_LOAD_CAL, TIME_LOAD_COUNT and TIME_STEP (R9, R12, R13, R14): a valid value loads the count, raises the generation, sets
TIME_VALID and phase 0; a step moves the count by whole seconds and raises the generation; any other value leaves the Time
Base as it was. -/
def Obligations.TimeLoadsAndStepsSetTheCount : Prop :=
  ∀ s : State, s.portReady →
    ((stagedCalendar s.tb.staging).valid = true → exec .timeLoadCal s =
      .next (({ s with tb := { s.tb with
        count := (stagedCalendar s.tb.staging).toTicks, generation := s.tb.generation + 1, valid := true,
        phase := 0 } }).answered .ok)) ∧
    ((stagedCalendar s.tb.staging).valid = false → exec .timeLoadCal s = .next (s.answered .badDate)) ∧
    (stagedCount s.tb.staging ≤ Config.endTime → exec .timeLoadCount s =
      .next (({ s with tb := { s.tb with
        count := stagedCount s.tb.staging, generation := s.tb.generation + 1, valid := true, phase := 0 } }).answered .ok)) ∧
    (Config.endTime < stagedCount s.tb.staging → exec .timeLoadCount s = .next (s.answered .outOfRange)) ∧
    (∀ delta : Int, stagedDelta s.tb.staging = delta →
      (∀ n : Nat, (n : Int) = s.tb.count + delta * 4096 → n ≤ Config.endTime → exec .timeStep s =
        .next (({ s with tb := { s.tb with count := n, generation := s.tb.generation + 1 } }).answered .ok)) ∧
      ((s.tb.count : Int) + delta * 4096 < 0 ∨ (Config.endTime : Int) < s.tb.count + delta * 4096 →
        exec .timeStep s = .next (s.answered .outOfRange)))

/-- TIME_SNAPSHOT, TIME_RUN and TIME_STOP (R8, R15, R17): the latch takes the pair, the run state and the calendar fields of
the latched count, and the TIME page shows the latch (R196). -/
def Obligations.SnapshotRunAndStop : Prop :=
  (∀ s : State, s.biu.page = 1 → s.pageShows (timeFields s.tb.latch)) ∧
  ∀ s : State, s.portReady →
    (∃ latch : Latch, exec .timeSnapshot s = .next (({ s with tb := { s.tb with latch := latch } }).answered .ok) ∧
      latch.stamp.count = s.tb.count ∧ latch.stamp.generation = s.tb.generation ∧ latch.run = s.tb.run ∧
      latch.date = calendarOf s.tb.count ∧ latch.weekday = (s.tb.count / 4096 / 86400 + 6) % 7) ∧
    exec .timeStop s = .next (({ s with tb := { s.tb with run := .stopped } }).answered .ok) ∧
    (s.tb.count ≠ Config.endTime →
      exec .timeRun s = .next (({ s with tb := { s.tb with run := .running } }).answered .ok)) ∧
    (s.tb.count = Config.endTime → exec .timeRun s = .next (s.answered .outOfRange))

/-- The calendar (R10, R11): a tick time gives a valid date that converts back to it, and a valid date gives a tick time in
0..END that converts back to it. -/
def Obligations.CalendarConversionsAgree : Prop :=
  (∀ n : Nat, n ≤ Config.endTime → (calendarOf n).valid = true ∧ (calendarOf n).toTicks = n) ∧
  (∀ c : Calendar, c.valid = true → c.toTicks ≤ Config.endTime ∧ calendarOf c.toTicks = c)

/-- The count never goes back but by a time load, a step or a cold start, and a load or a step raises the generation by one
(R2, R4). A command that loses the backup domain is counted with the cold start that follows it (log 11). -/
def Obligations.TimeGoesBackOnlyWithANewGeneration : Prop :=
  ∀ (c : Instr) (s t : State), exec c s = .next t →
    t.tb.generation = s.tb.generation ∧ s.tb.count ≤ t.tb.count ∧ t.tb.count ≤ s.tb.count + 1 ∨
    t.tb.generation = s.tb.generation + 1 ∨
    t.tb = State.reset.tb

/-! ## Agenda -/

/-- The acceptance of the seven agenda commands (R27): ARG and the entry staging are copied, the port becomes BUSY. -/
def Obligations.AgendaCommandsAreAccepted : Prop :=
  ∀ s : State, s.portReady →
    ∀ p ∈ ([(Instr.entryLoad, AgendaCommand.load), (.entryRead, .read), (.entryRelease, .release),
        (.entryArmAt, .armAt), (.entryArmIn, .armIn), (.entryDisarm, .disarm), (.agendaClear, .clear)] :
        List (Instr × AgendaCommand)),
      ∃ t, exec p.1 s = .next t ∧ t.portBusy = true ∧
        t = { s with
          biu := { s.biu with cmdDone := false }
          au := { s.au with inFlight := some { command := p.2, arg := s.biu.arg, staging := s.au.staging } } }

/-- A slot number of 64 to 255 (R28): ENTRY_LOAD, ENTRY_READ and ENTRY_RELEASE take their slot number from the copied ARG and
complete with BAD_ARG, whatever else would be checked; AGENDA_CLEAR does the same whatever the copied ARG. -/
def Obligations.BadSlotNumberIsBadArg : Prop :=
  ∀ (s : State) (f : InFlight), s.mainUp → s.au.inFlight = some f →
    (f.command = .load ∨ f.command = .read ∨ f.command = .release → 64 ≤ f.arg.toNat →
      exec .agendaCommandCompletion s =
        .next (({ s with au := { s.au with inFlight := none } }).answered .badArg)) ∧
    (f.command = .load ∨ f.command = .read ∨ f.command = .release → f.arg.toNat < 64 →
      ∀ i : Fin 64, i.val = f.arg.toNat → ∃ t, exec .agendaCommandCompletion s = .next t ∧
        (∀ j : Fin 64, j ≠ i → t.au.slots[j] = s.au.slots[j]) ∧
        (f.command = .read → t.au.window.slot = i)) ∧
    (f.command = .clear → ∀ arg : Byte,
      exec .agendaCommandCompletion { s with au := { s.au with inFlight := some { f with arg := arg } } } =
        exec .agendaCommandCompletion s)

/-- ENTRY_LOAD at its completion: the checks of R29 in their order, and the load of R30. -/
def Obligations.EntryLoadChecksThenLoads : Prop :=
  ∀ (s : State) (f : InFlight) (i : Fin 64), s.mainUp → s.au.inFlight = some f → f.command = .load → f.arg.toNat = i.val →
    ∀ (period repeats due message chain : Nat),
      stagedValue f.staging 6 4 = period → stagedValue f.staging 10 2 = repeats → stagedValue f.staging 0 6 = due →
      (stagedByte f.staging 18).toNat = message → (stagedByte f.staging 21).toNat = chain →
    ∀ code : ResultCode,
      code =
        (if period = 0 ∧ repeats ≠ 0 then .badArg
        else if 32 ≤ message ∧ message ≤ 254 then .badArg
        else if 64 ≤ chain ∧ chain ≤ 254 ∨ chain = i.val then .badArg
        else if Config.endTime < due then .outOfRange
        else if s.au.slots[i].state = .armed then .badState
        else .ok) →
      ∃ x : Slot,
        exec .agendaCommandCompletion s =
          .next (({ s with au := { s.au with slots := s.au.slots.set i x, inFlight := none } }).answered code) ∧
        (code ≠ .ok → x = s.au.slots[i]) ∧
        (code = .ok →
          x.state = .held ∧ x.entry.due = due ∧ x.entry.period = period ∧ x.entry.repeats = repeats ∧
          x.entry.remaining = repeats ∧ x.entry.tolerance = stagedValue f.staging 12 2 ∧
          x.entry.setMask = stagedByte f.staging 14 ∧ x.entry.clearMask = stagedByte f.staging 15 ∧
          x.entry.pulseWidth = stagedValue f.staging 16 2 ∧
          x.entry.message.map Fin.val = (if message = 255 then none else some message) ∧
          x.entry.channel = (if (stagedByte f.staging 19).getLsbD 0 then .b else .a) ∧
          x.entry.notify = { onFire := (stagedByte f.staging 20).getLsbD 0, onMiss := (stagedByte f.staging 20).getLsbD 1,
                             onSpent := (stagedByte f.staging 20).getLsbD 2, onTxEnd := (stagedByte f.staging 20).getLsbD 3 } ∧
          x.entry.chainTarget.map Fin.val = (if chain = 255 then none else some chain) ∧
          x.entry.chainDelay = stagedValue f.staging 22 2 ∧
          x.entry.fired = 0 ∧ x.entry.missed = 0 ∧ x.entry.last = none ∧ x.entry.spent = none)

/-- ENTRY_READ, ENTRY_RELEASE and AGENDA_CLEAR at their completion (R32, R34, R36); the ENTRY page shows the result window
(R194, R196). -/
def Obligations.EntryReadReleaseAndClear : Prop :=
  (∀ s : State, s.biu.page = 0 → s.pageShows (entryFields s.au.window)) ∧
  [SlotState.free, .held, .armed, .spent].map SlotState.code = [0, 1, 2, 3] ∧
  [SpentReason.oneShot, .repeatDone, .endOfRange].map SpentReason.code = [1, 2, 3] ∧
  [RefuseReason.noMessage, .queueFull, .channelOff].map RefuseReason.code = [1, 2, 3] ∧
  [Channel.a, .b].map channelCode = [0, 1] ∧
  ∀ (s : State) (f : InFlight), s.mainUp → s.au.inFlight = some f →
    (∀ i : Fin 64, f.arg.toNat = i.val →
      (f.command = .read → exec .agendaCommandCompletion s =
        .next (({ s with au := { s.au with window := { slot := i, image := s.au.slots[i] },
                                           inFlight := none } }).answered .ok)) ∧
      (f.command = .release → s.au.slots[i].state ≠ .armed → exec .agendaCommandCompletion s =
        .next (({ s with au := { s.au with slots := s.au.slots.set i { state := .free, entry := Entry.freeImage },
                                           inFlight := none } }).answered .ok)) ∧
      (f.command = .release → s.au.slots[i].state = .armed → exec .agendaCommandCompletion s =
        .next (({ s with au := { s.au with inFlight := none } }).answered .badState))) ∧
    (f.command = .clear → ∃ slots : Vector Slot 64, exec .agendaCommandCompletion s =
      .next (({ s with au := { s.au with slots := slots, dueList := [], inFlight := none } }).answered .ok) ∧
        ∀ j : Fin 64, slots[j] = { state := .free, entry := Entry.freeImage })

/-- ENTRY_ARM_AT, ENTRY_ARM_IN and ENTRY_DISARM at their completion (R40 to R44): a slot number of 64 to 255 is BAD_ARG; the due
list keeps its order with the slot added or taken out, and arming changes the state and the due field alone. -/
def Obligations.ArmingKeepsTheDueListInOrder : Prop :=
  (∀ (s : State) (f : InFlight), s.mainUp → s.au.inFlight = some f → 64 ≤ f.arg.toNat →
    f.command = .armAt ∨ f.command = .armIn ∨ f.command = .disarm →
    exec .agendaCommandCompletion s = .next (({ s with au := { s.au with inFlight := none } }).answered .badArg)) ∧
  ∀ (s : State) (f : InFlight) (i : Fin 64),
    AgendaSound s → s.mainUp → s.au.inFlight = some f → f.arg.toNat = i.val →
    ∀ delay : Nat, stagedValue f.staging 24 4 = delay →
    ∀ armed : Option Nat,
      armed =
        (if s.au.slots[i].state = .held then
          if f.command = .armAt then some s.au.slots[i].entry.due
          else if f.command = .armIn ∧ s.tb.count + delay ≤ Config.endTime then some (s.tb.count + delay)
          else none
        else none) →
      (∀ due, armed = some due → ∃ list : List (Fin 64), ∃ slots : Vector Slot 64,
        exec .agendaCommandCompletion s =
          .next (({ s with au := { s.au with slots := slots, dueList := list, inFlight := none } }).answered .ok) ∧
        slots = s.au.slots.set i { state := .armed, entry := { s.au.slots[i].entry with due := due } } ∧
        (list.filter fun j => j != i) = s.au.dueList ∧ i ∈ list ∧ list.Pairwise (DueBefore slots)) ∧
      (f.command = .armAt ∨ f.command = .armIn → armed = none → exec .agendaCommandCompletion s =
        .next (({ s with au := { s.au with inFlight := none } }).answered
          (if s.au.slots[i].state = SlotState.held then ResultCode.outOfRange else .badState))) ∧
      (f.command = .disarm → s.au.slots[i].state = .armed → exec .agendaCommandCompletion s =
        .next (({ s with au := { s.au with
          slots := s.au.slots.set i { s.au.slots[i] with state := .held },
          dueList := s.au.dueList.filter fun j => j != i, inFlight := none } }).answered .ok)) ∧
      (f.command = .disarm → s.au.slots[i].state ≠ .armed → exec .agendaCommandCompletion s =
        .next (({ s with au := { s.au with inFlight := none } }).answered .badState))

/-! ## Occurrences -/

/-- The head is taken only while the Time Base is RUNNING and only when its due time is not above the count (R48); else nothing
changes. -/
def Obligations.NoOccurrenceBeforeItsTime : Prop :=
  ∀ s : State,
    (s.tb.run = .stopped ∨ s.au.dueList = [] ∨
      (∃ i rest, s.au.dueList = i :: rest ∧ s.tb.count < s.au.slots[i].entry.due)) →
    exec .occurrence s = .next s

/-- What a performed occurrence hands out: the line action (R51), the SEND request (started at once on an empty queue, R103) or
its refusal (R52, R85), the chain arm or its refusal (R53), and the ACTION_REFUSED flag for either refusal. Beside its notices
(OccurrenceNoticesInOrder says which), and what the other channel hears of a started request with the cross-loop on (R111, log
18), nothing else changes. A tick on its way to a block is another statement's (TickCountsPulsesAndTransmissions). -/
def Obligations.PerformedOccurrenceHandsOutItsActions : Prop :=
  ∀ (s : State) (i : Fin 64) (rest : List (Fin 64)) (e : Entry),
    AgendaSound s → s.takes i rest → s.ticksTaken → s.au.slots[i].entry = e → s.tb.count - e.due ≤ e.tolerance →
    ∀ (refused : Option RefuseReason) (chainRefused : Bool),
      refused =
        (match e.message with
        | none => none
        | some m =>
          if s.mm.directory[m].defined = false then some .noMessage
          else if (s.chan e.channel).config.txEnable = false then some .channelOff
          else if 8 ≤ (s.tx e.channel).queue.length then some .queueFull
          else none) →
      chainRefused =
        (match e.chainTarget with
        | none => false
        | some c => !(decide ((s.au.slots[c] : Slot).state = SlotState.held) && decide (e.due + e.chainDelay ≤ Config.endTime))) →
      ∃ (t : State) (x : Transmitter) (bodies : List NoticeBody), exec .occurrence s = .next t ∧
        (∀ n : Fin 8, t.du.lines[n] = s.du.lines[n].act (e.setMask.getLsbD n.val) (e.clearMask.getLsbD n.val)
          e.pulseWidth (.slot i)) ∧
        (x.tickOwed = (s.tx e.channel).tickOwed ∧
          ((s.tx e.channel).queue = [] → x.hasBegun s.mm false) ∧
          ((s.tx e.channel).queue ≠ [] → x = { s.tx e.channel with queue := x.queue }) ∧
          ∀ m, e.message = some m → x.queue = (s.tx e.channel).queue ++ [.send m (.slot i) e.notify.onTxEnd]) ∧
        (match e.message, refused with
          | some m, none =>
            t.ser = (if (s.tx e.channel).queue = [] then putOnLine e.channel x s else s.withTx e.channel x).ser ∧
            t.mm = { s.mm with
              directory := s.mm.directory.set m { s.mm.directory[m] with busy := s.mm.directory[m].busy + 1 } }
          | _, _ => t.ser = s.ser ∧ t.mm = s.mm) ∧
        (∀ c, e.chainTarget = some c → chainRefused = false →
          t.au.slots[c] = { state := .armed, entry := { s.au.slots[c].entry with due := e.due + e.chainDelay } } ∧
          c ∈ t.au.dueList) ∧
        (∀ j, j ≠ i → (chainRefused = true ∨ e.chainTarget ≠ some j) → t.au.slots[j] = s.au.slots[j]) ∧
        t.au.slots[i].entry.last =
          some { due := e.due, lateness := min (s.tb.count - e.due) 65535, generation := s.tb.generation,
                 outcome := .performed refused chainRefused } ∧
        t.niu = (s.niu.refusing (refused.isSome || chainRefused)).took s.present bodies ∧
        t = { s with
          au := { s.au with slots := t.au.slots, dueList := t.au.dueList }, du := { s.du with lines := t.du.lines },
          ser := t.ser, mm := t.mm, niu := t.niu }

/-- A missed occurrence (R55) performs no action: beside its own slot, the due list and the notices, nothing changes. -/
def Obligations.MissedOccurrencePerformsNothing : Prop :=
  ∀ (s : State) (i : Fin 64) (rest : List (Fin 64)) (e : Entry),
    AgendaSound s → s.takes i rest → s.ticksTaken → s.au.slots[i].entry = e → e.tolerance < s.tb.count - e.due →
    ∃ t, exec .occurrence s = .next t ∧
      t = { s with au := { s.au with slots := t.au.slots, dueList := t.au.dueList }, niu := t.niu } ∧
      (∀ j, j ≠ i → t.au.slots[j] = s.au.slots[j]) ∧
      t.faultSet .actionRefused = s.faultSet .actionRefused ∧
      t.au.slots[i].entry.fired = e.fired ∧
      t.au.slots[i].entry.last =
        some { due := e.due, lateness := min (s.tb.count - e.due) 65535, generation := s.tb.generation, outcome := .missed }

/-- The advance (R54 to R58): what an occurrence of entry `e` makes of its slot and of the due list. `k` is the number of
occurrences consumed: 1 when performed, and all those overdue when a periodic one is missed. The rest of the entry is as it was. -/
def Obligations.OccurrenceAdvancesItsEntry : Prop :=
  ∀ (s : State) (i : Fin 64) (rest : List (Fin 64)) (e : Entry) (performed : Bool) (k : Nat),
    AgendaSound s → s.takes i rest → s.ticksTaken → s.au.slots[i].entry = e →
    performed = decide (s.tb.count - e.due ≤ e.tolerance) →
    k = (if performed = true ∨ e.period = 0 then 1 else (s.tb.count - e.due) / e.period + 1) →
    ∃ t, exec .occurrence s = .next t ∧
      t.au.slots[i].entry = { e with
        due := t.au.slots[i].entry.due, remaining := t.au.slots[i].entry.remaining, fired := t.au.slots[i].entry.fired,
        missed := t.au.slots[i].entry.missed, last := t.au.slots[i].entry.last, spent := t.au.slots[i].entry.spent } ∧
      t.au.slots[i].entry.fired = (if performed then min (e.fired + 1) 65535 else e.fired) ∧
      t.au.slots[i].entry.missed = (if performed then e.missed else min (e.missed + k) 65535) ∧
      t.au.slots[i].entry.remaining =
        (if e.period = 0 ∨ e.repeats = 0 then e.remaining else e.remaining - k) ∧
      ∀ reason : Option SpentReason,
        reason =
          (if e.period = 0 then some .oneShot
          else if e.repeats ≠ 0 ∧ e.remaining ≤ k then some .repeatDone
          else if Config.endTime < e.due + k * e.period then some .endOfRange
          else none) →
        t.au.slots[i].entry.spent = reason ∧
        (reason = none → t.au.slots[i].state = .armed ∧ t.au.slots[i].entry.due = e.due + k * e.period ∧ i ∈ t.au.dueList) ∧
        (reason ≠ none → t.au.slots[i].state = .spent ∧ t.au.slots[i].entry.due = e.due ∧ i ∉ t.au.dueList)

/-- The notices of an occurrence, in their order (R54, R55, R58, R60), kept or lost one after the other (R167): with one place
free the first is kept and the SPENT notice after it is lost. -/
def Obligations.OccurrenceNoticesInOrder : Prop :=
  ∀ (s : State) (i : Fin 64) (rest : List (Fin 64)) (e : Entry),
    AgendaSound s → s.takes i rest → s.ticksTaken → s.au.slots[i].entry = e →
    ∃ (t : State) (refused : Bool), exec .occurrence s = .next t ∧
      ∀ (late : Nat) (bodies : List NoticeBody), late = s.tb.count - e.due →
        bodies =
          (if late ≤ e.tolerance then
            if e.notify.onFire then
              match t.au.slots[i].entry.last with
              | some { outcome := .performed tx chain, .. } => [.fired i (min late 65535) tx chain]
              | _ => []
            else []
          else
            if e.notify.onMiss then
              [.missed i (min (if e.period = 0 then 1 else late / e.period + 1) 65535)]
            else []) ++
          (match t.au.slots[i].entry.spent with
          | some reason => if e.notify.onSpent then [.spent i reason] else []
          | none => []) →
        t.niu = (s.niu.refusing refused).took s.present bodies ∧
        (late ≤ e.tolerance → ∃ o, t.au.slots[i].entry.last = some o ∧ ∃ tx chain, o.outcome = .performed tx chain) ∧
        (∀ b c, bodies = [b, c] → s.niu.queue.length = 31 →
          t.niu.queue = s.niu.queue ++ [{ body := b, stamp := s.present }] ∧ t.niu.lost = min (s.niu.lost + 1) 255 ∧
          t.faultSet .noticeLost = true)

/-- A group of arm requests (R61, R62, R159, R160), whatever its length and its slots: a request hits where its slot is HELD and no
request before it in the group names the slot. A hit arms the slot at its due time and, where its rule is one-shot and the
request current, disables the rule; every other request is a miss with reason NOT_HELD, which sets its rule's miss flag where
the request is current. Nothing else changes. -/
def Obligations.ArmRequestsHitOnceThenMiss : Prop :=
  ∀ (s : State) (g : List ArmRequest) (rest : List (List ArmRequest)),
    AgendaSound s → s.mainUp → s.tu.answers = g :: rest →
    ∃ t, exec .armRequestGroup s = .next t ∧
      (∀ (n : Nat) (q : ArmRequest), g[n]? = some q → s.hits g n = true → t.au.slots[q.slot] =
        { state := .armed, entry := { s.au.slots[q.slot].entry with due := q.due } }) ∧
      (∀ j : Fin 64, s.au.slots[j].state ≠ .held ∨ (∀ q ∈ g, q.slot ≠ j) → t.au.slots[j] = s.au.slots[j]) ∧
      (∀ j : Fin 64, j ∈ t.au.dueList ↔
        j ∈ s.au.dueList ∨ (s.au.slots[j].state = .held ∧ ∃ q ∈ g, q.slot = j)) ∧
      t.au.dueList.Pairwise (DueBefore t.au.slots) ∧
      (∀ k : Fin 8, t.tu.rules[k] = { (s.tu.rules[k] : Rule) with
        enabled := (s.tu.rules[k] : Rule).enabled && !((s.tu.rules[k] : Rule).oneShot &&
          (List.range g.length).any fun n =>
            s.hits g n && (g[n]?.any fun q => q.rule == k && q.current))
        miss := (s.tu.rules[k] : Rule).miss ||
          (List.range g.length).any fun n =>
            !s.hits g n && (g[n]?.any fun q => q.rule == k && q.current) }) ∧
      (∀ misses : List NoticeBody,
        misses = ((List.range g.length).filterMap fun n =>
          if s.hits g n then none else g[n]?.map fun q => .triggerMiss q.rule q.slot .notHeld) →
        t.niu = (s.niu.refusing (decide (misses ≠ []))).took s.present misses) ∧
      t = { s with
        au := { s.au with slots := t.au.slots, dueList := t.au.dueList }, niu := t.niu,
        tu := { s.tu with answers := rest, rules := t.tu.rules } }

/-! ## Dispatch lines -/

/-- LINE_WRITE (R75): the drive of all eight lines, and the line action of the staged masks and width on each (R69, R70). -/
def Obligations.LineWriteActsOnItsLines : Prop :=
  ∀ s : State, s.portReady → ∃ lines : Vector Line 8,
    exec .lineWrite s = .next (({ s with du := { s.du with lines := lines } }).answered .ok) ∧
    ∀ (n : Fin 8) (inSet inClear : Bool) (width : Nat),
      (stagedByte s.du.staging 0).getLsbD n.val = inSet → (stagedByte s.du.staging 1).getLsbD n.val = inClear →
      stagedValue s.du.staging 2 2 = width →
      lines[n].driven = (stagedByte s.du.staging 4).getLsbD n.val ∧
      ((inSet || inClear) = false →
        lines[n].level = s.du.lines[n].level ∧ lines[n].pending = s.du.lines[n].pending ∧
        lines[n].source = s.du.lines[n].source) ∧
      ((inSet || inClear) = true →
        lines[n].source = .host ∧
        lines[n].level = (if inSet && inClear then !s.du.lines[n].level else inSet) ∧
        lines[n].pending =
          (if width = 0 then none else some { level := s.du.lines[n].level, remaining := width }))

/-- PULSE_END (R71, R72): a tick on its way to the Dispatch Unit (log 6) is taken there, every return with its last tick remaining
takes its line to the return level and is gone, with last source and drive kept, and every other return counts down. A transmitter
that a tick is still on its way to takes it too (R103), unless a further row keeps it waiting (log 5). Nothing else changes, and
with no tick on its way nothing at all. LINE_READ (R78) copies all eight records, the LINES page shows the copy (R196), LINE_LEVEL the
levels (R77), and the DL outputs the levels of the driven lines (R68). -/
def Obligations.PulseEndAndLineRead : Prop :=
  ∀ s : State,
    (s.mainUp → s.ticksTaken → exec .pulseEnd s = .next s) ∧
    (s.mainUp → ∃ (t : State) (lines : Vector Line 8), exec .pulseEnd s = .next t ∧
      t = { s with du := { s.du with lines := lines, tickOwed := false }, ser := t.ser } ∧
      (s.ticksMayWait → t.ser = s.ser) ∧
      (¬ s.ticksMayWait → ∀ taken : Channel → Transmitter,
        (∀ ch, taken ch = if (s.tx ch).tickOwed then { s.tx ch with
            elapsed := if (s.tx ch).queue = [] then (s.tx ch).elapsed else min ((s.tx ch).elapsed + 1) 65535
            tickOwed := false }
          else s.tx ch) →
        t.ser = { s.ser with
          chans := { a := { s.chan .a with tx := taken .a }, b := { s.chan .b with tx := taken .b } } }) ∧
      (s.du.tickOwed = false → lines = s.du.lines) ∧
      (s.du.tickOwed = true → ∀ n : Fin 8,
        (s.du.lines[n].pending = none → lines[n] = s.du.lines[n]) ∧
        (∀ v r, s.du.lines[n].pending = some { level := v, remaining := r } → r ≤ 1 →
          lines[n] = { s.du.lines[n] with level := v, pending := none }) ∧
        (∀ v r, s.du.lines[n].pending = some { level := v, remaining := r } → 2 ≤ r →
          lines[n] = { s.du.lines[n] with pending := some { level := v, remaining := r - 1 } }))) ∧
    (s.portReady → exec .lineRead s = .next (({ s with du := { s.du with copy := s.du.lines } }).answered .ok)) ∧
    (s.biu.page = 7 → s.pageShows (lineFields s.du.copy)) ∧
    (∀ i : Fin 64, Source.code (.slot i) = BitVec.ofNat 8 i.val) ∧ Source.code .host = 64 ∧ Source.code .reset = 65 ∧
    (∀ n : Fin 8, (s.readLocation 0x0E).getLsbD n.val = s.du.lines[n].level) ∧
    (∀ n : Fin 8, s.dlPin n =
      (if s.power.vmainGood = true ∧ s.du.lines[n].driven = true then some s.du.lines[n].level else none))

/-! ## Message memory -/

/-- MSG_DEFINE, MSG_UNDEFINE and MSG_READ (R81, R82, R83) in the order of their checks; the MESSAGE page shows the copy (R196). -/
def Obligations.MessageCommandsFollowTheirChecks : Prop :=
  (∀ s : State, s.biu.page = 3 → s.pageShows (messageFields s.mm.copy)) ∧
  ∀ s : State, s.portReady →
    (32 ≤ s.biu.arg.toNat →
      ∀ c ∈ [Instr.msgDefine, .msgUndefine, .msgRead], exec c s = .next (s.answered .badArg)) ∧
    ∀ (m : Fin 32) (offset length : Nat), s.biu.arg.toNat = m.val →
      stagedValue s.mm.staging 0 2 = offset → stagedValue s.mm.staging 2 2 = length →
      exec .msgRead s =
        .next (({ s with mm := { s.mm with copy := { message := m, descriptor := s.mm.directory[m] } } }).answered .ok) ∧
      (∀ d : Descriptor, d = s.mm.directory[m] →
        exec .msgUndefine s =
          .next (if 0 < d.busy then s.answered .locked
            else ({ s with mm := { s.mm with
              directory := s.mm.directory.set m { d with defined := false, offset := 0, length := 0 } } }).answered .ok) ∧
        exec .msgDefine s =
          .next (if length = 0 ∨ 256 < length then s.answered .badArg
            else if 2047 < offset ∨ 2048 < offset + length then s.answered .badArg
            else if 0 < d.busy then s.answered .locked
            else ({ s with mm := { s.mm with
              directory :=
                s.mm.directory.set m { d with defined := true, offset := offset, length := length } } }).answered .ok))

/-- MM_PTR (R88): a write to its low location keeps the upper 3 bits, one to its high location the lower 8; a read of the low
location returns the lower 8 bits and copies the upper 3. -/
def Obligations.StorePointerIsSetByItsTwoBytes : Prop :=
  ∀ (s : State) (byte : Byte), s.busReady →
    (∃ p : BitVec 11, exec (.mmPtrLowWrite byte) s = .next { s with mm := { s.mm with pointer := p } } ∧
      p.toNat = s.mm.pointer.toNat / 256 * 256 + byte.toNat) ∧
    (∃ p : BitVec 11, exec (.mmPtrHighWrite byte) s = .next { s with mm := { s.mm with pointer := p } } ∧
      p.toNat = byte.toNat % 8 * 256 + s.mm.pointer.toNat % 256) ∧
    (∃ (copy : BitVec 3) (low : Byte), exec (.mmPtrLowRead .whole) s =
        .next { s with mm := { s.mm with ptrCopy := copy }, hostRead := some low } ∧
      copy.toNat = s.mm.pointer.toNat / 256 ∧ low.toNat = s.mm.pointer.toNat % 256)

/-- MM_DATA (R89, R90): a write outside every busy range changes the byte at the pointer and no other, one inside changes none
and sets MM_CONFLICT; a read returns the byte at the pointer; each advances the pointer, from 2047 to 0. -/
def Obligations.StoreDataReadsAndWrites : Prop :=
  ∀ (s : State) (byte : Byte) (blocked : Prop), s.busReady →
    (blocked ↔ ∃ m : Fin 32, 0 < s.mm.directory[m].busy ∧ s.mm.directory[m].offset ≤ s.mm.pointer.toNat ∧
      s.mm.pointer.toNat < s.mm.directory[m].offset + s.mm.directory[m].length) →
    (¬ blocked → ∃ (cells : List Host.Cell) (p : BitVec 11),
      exec (.mmDataWrite byte) s = .next { s with mm := { s.mm with store := cells, pointer := p } } ∧
      p.toNat = (s.mm.pointer.toNat + 1) % 2048 ∧
      (∀ mm : MessageMemory, mm = { s.mm with store := cells } →
        storeByte mm s.mm.pointer.toNat = byte ∧
        ∀ i, i ≠ s.mm.pointer.toNat → storeByte mm i = storeByte s.mm i)) ∧
    (blocked → ∃ p : BitVec 11, p.toNat = (s.mm.pointer.toNat + 1) % 2048 ∧
      exec (.mmDataWrite byte) s =
        .next { s with mm := { s.mm with pointer := p }, niu := { s.niu with faults := s.niu.faults ||| 0x08 } }) ∧
    (∃ p : BitVec 11, p.toNat = (s.mm.pointer.toNat + 1) % 2048 ∧
      exec (.mmDataRead .whole) s =
        .next { s with mm := { s.mm with pointer := p }, hostRead := some (storeByte s.mm s.mm.pointer.toNat) })

/-- While a message is busy, its offset and length stay as they are and no bus write changes a byte inside its range (R87):
no command changes either, but those in which VMAIN's supply is lost or comes back. -/
def Obligations.BusyMessageStaysAsQueued : Prop :=
  ∀ (c : Instr) (s t : State) (m : Fin 32),
    (∀ supply n, c ≠ .coldStart supply n) → (∀ n, c ≠ .mainPowerUp n) → (∀ held, c ≠ .vmainFall held) →
    0 < s.mm.directory[m].busy → exec c s = .next t → s.sameMessage t m

/-! ## Transmitters -/

/-- TX_CHARACTER_END (R104, R105, R107): the next byte's character begins; or the SEND leaves, its busy count falls, its notice
is posted where it asks for one, kept or lost (R167), and the next request begins without a lead. With the cross-loop on, the
other channel's receiver hears what begins, behind the bits it has heard since the fall of its start bit, or that the line now
rests at mark (R111, log 18). -/
def Obligations.CharacterEndSendsNextOrLeaves : Prop :=
  ∀ (s : State) (ch : Channel) (b : Byte) (m : Fin 32) (source : Source) (notify : Bool) (rest : List Request),
    s.sends ch → (s.tx ch).out = .char b → (s.tx ch).queue = .send m source notify :: rest →
    ((s.tx ch).state ≠ .stopping → (s.tx ch).byteIndex + 1 < s.mm.directory[m].length →
      exec (.txCharacterEnd ch) s = .next (putOnLine ch { s.tx ch with
        byteIndex := (s.tx ch).byteIndex + 1
        out := .char (storeByte s.mm (s.mm.directory[m].offset + ((s.tx ch).byteIndex + 1))) } s)) ∧
    ((s.tx ch).state = .stopping ∨ s.mm.directory[m].length ≤ (s.tx ch).byteIndex + 1 →
      ∃ t, exec (.txCharacterEnd ch) s = .next t ∧
        (t.tx ch).queue = rest ∧ (t.tx ch).hasBegun s.mm false ∧
        t.mm = { s.mm with
          directory := s.mm.directory.set m { s.mm.directory[m] with busy := s.mm.directory[m].busy - 1 } } ∧
        t.niu = s.niu.took s.present (if notify then
          [if (s.tx ch).state = .stopping then .txAborted ch m source ((s.tx ch).byteIndex + 1)
           else .txDone ch m source (s.tx ch).elapsed] else []) ∧
        t = { putOnLine ch (t.tx ch) s with mm := t.mm, niu := t.niu }) ∧
    (s.ser.loop = false → ∀ x, putOnLine ch x s = s.withTx ch x) ∧
    (s.ser.loop = true → ∀ t other, other = otherChannel ch → exec (.txCharacterEnd ch) s = .next t →
      (s.rx other).state = .inChar → ∀ h since, (s.rx other).looped = some h → h.after = .carries since →
      (∀ byte, (t.tx ch).out = .char byte → (t.rx other).looped = some { h with
        bits := h.bits ++ (s.chan ch).config.characterBits byte, after := .carries h.bits.length }) ∧
      ((t.tx ch).out = .low → (t.rx other).looped = some { h with
        bits := h.bits ++ List.replicate (s.chan ch).config.charBits false, after := .carries h.bits.length }) ∧
      ((t.tx ch).out = .mark → (t.rx other).looped = some { h with after := .rest }))

/-- TX_BREAK_TIME_END and TX_LEAD_END (R98, R106, R107). With the cross-loop on the other channel's receiver hears what begins
(CharacterEndSendsNextOrLeaves says how). -/
def Obligations.BreakTimesAndLeadsEnd : Prop :=
  ∀ (s : State) (ch : Channel) (r : Request) (rest : List Request), s.sends ch → (s.tx ch).queue = r :: rest →
    ((s.tx ch).out = .low → (s.tx ch).state = .breaking → 2 ≤ (s.tx ch).breakRemaining →
      exec (.txBreakTimeEnd ch) s =
        .next (putOnLine ch { s.tx ch with breakRemaining := (s.tx ch).breakRemaining - 1 } s)) ∧
    (∀ n, r = .brk n → (s.tx ch).out = .low → (s.tx ch).state = .stopping ∨ (s.tx ch).breakRemaining ≤ 1 →
      ∃ x, exec (.txBreakTimeEnd ch) s = .next (putOnLine ch x s) ∧ x.queue = rest ∧ x.hasBegun s.mm true) ∧
    ((s.tx ch).out = .lead → (s.tx ch).state ≠ .stopping → ∃ out, exec (.txLeadEnd ch) s =
        .next (putOnLine ch { s.tx ch with out := out } s) ∧
      (∀ n, r = .brk n → out = .low) ∧
      (∀ m source notify, r = .send m source notify → out = .char (storeByte s.mm s.mm.directory[m].offset))) ∧
    (∀ n, r = .brk n → (s.tx ch).out = .lead → (s.tx ch).state = .stopping →
      ∃ x, exec (.txLeadEnd ch) s = .next (putOnLine ch x s) ∧ x.queue = rest ∧ x.hasBegun s.mm true) ∧
    (∀ m source notify, r = .send m source notify → (s.tx ch).out = .lead → (s.tx ch).state = .stopping →
      ∃ (t : State) (x : Transmitter), exec (.txLeadEnd ch) s = .next t ∧ x.queue = rest ∧ x.hasBegun s.mm false ∧
        t = { putOnLine ch x s with
          mm := { s.mm with
            directory := s.mm.directory.set m { s.mm.directory[m] with busy := s.mm.directory[m].busy - 1 } }
          niu := s.niu.took s.present (if notify then [.txAborted ch m source 0] else []) })

/-- CH_CONFIG and CH_FRAME_CONFIG (R95, R126) in the order of their checks; a CH_CONFIG that leaves the receiver on makes it
watch its input afresh (R115; the level it knows of its input is the model's field, log 17). -/
def Obligations.ChannelSettingsFollowTheirChecks : Prop :=
  ∀ s : State, s.portReady →
    (2 ≤ s.biu.arg.toNat → exec .chConfig s = .next (s.answered .badArg) ∧
      exec .chFrameConfig s = .next (s.answered .badArg)) ∧
    ∀ ch : Channel, s.biu.arg = channelCode ch →
    ∀ divisor bits parity stops enables : Nat,
      stagedValue s.ser.staging 0 2 = divisor → (stagedByte s.ser.staging 2).toNat = bits →
      (stagedByte s.ser.staging 3).toNat = parity → (stagedByte s.ser.staging 4).toNat = stops →
      (stagedByte s.ser.staging 5).toNat = enables →
    ∀ gap present terminator longest : Nat,
      (stagedByte s.ser.staging 9).toNat = gap → (stagedByte s.ser.staging 10).toNat = present →
      (stagedByte s.ser.staging 11).toNat = terminator → stagedValue s.ser.staging 12 2 = longest →
    (∀ code : ResultCode,
      code =
        (if divisor = 0 ∨ ¬ (bits = 7 ∨ bits = 8) ∨ 3 ≤ parity ∨ ¬ (stops = 1 ∨ stops = 2) then .badArg
        else if (s.tx ch).queue ≠ [] ∨ (s.rx ch).state ≠ .idle then .badState
        else .ok) →
      ∃ x : SerialChannel, exec .chConfig s =
          .next (({ s with ser := { s.ser with chans := s.ser.chans.set ch x } }).answered code) ∧
        (code ≠ .ok → x = s.chan ch) ∧
        (code = .ok → x.tx = s.tx ch ∧ x.config.divisor = divisor ∧
          (x.config.dataBits = .seven ↔ bits = 7) ∧ (x.config.parity = .even ↔ parity = 1) ∧
          (x.config.parity = .odd ↔ parity = 2) ∧ (x.config.stopBits = .two ↔ stops = 2) ∧
          (x.config.txEnable = true ↔ enables % 2 = 1) ∧ (x.config.rxEnable = true ↔ enables / 2 % 2 = 1) ∧
          x.rx = (if x.config.rxEnable then
            (s.rx ch).afresh (inputKnown s ch) else s.rx ch))) ∧
    (∀ code : ResultCode,
      code =
        (if gap = 0 ∨ 15 < gap ∨ 2 ≤ present ∨ longest = 0 ∨ 256 < longest then .badArg
        else if (s.rx ch).state ≠ .idle then .badState
        else .ok) →
      ∃ rules : FrameRules,
        exec .chFrameConfig s = .next ((s.withRx ch { s.rx ch with rules := rules }).answered code) ∧
        (code ≠ .ok → rules = (s.rx ch).rules) ∧
        (code = .ok → rules.gap = gap ∧ rules.maxLength = longest ∧
          rules.terminator.map BitVec.toNat = (if present = 1 then some terminator else none)))

/-- CH_SEND and CH_BREAK (R101, R102): the checks in their order; an accepted request joins the tail, begins at once on an empty
queue, and a SEND raises its message's busy count. With the cross-loop on the other channel's receiver hears what begins
(CharacterEndSendsNextOrLeaves says how). -/
def Obligations.SendsAndBreaksJoinTheQueue : Prop :=
  ∀ s : State, s.portReady →
    (2 ≤ s.biu.arg.toNat → exec .chSend s = .next (s.answered .badArg) ∧ exec .chBreak s = .next (s.answered .badArg)) ∧
    ∀ ch : Channel, s.biu.arg = channelCode ch →
    ∀ (message length : Nat) (notify : Bool), (stagedByte s.ser.staging 6).toNat = message →
      (stagedByte s.ser.staging 7).getLsbD 0 = notify → (stagedByte s.ser.staging 8).toNat = length →
    (32 ≤ message → exec .chSend s = .next (s.answered .badArg)) ∧
    (∀ (m : Fin 32) (code : ResultCode), m.val = message →
      code =
        (if s.mm.directory[m].defined = false then .badState
        else if (s.chan ch).config.txEnable = false then .badState
        else if 8 ≤ (s.tx ch).queue.length then .full
        else .ok) →
      (code ≠ .ok → exec .chSend s = .next (s.answered code)) ∧
      (code = .ok → ∃ x : Transmitter, exec .chSend s =
          .next (({ (if (s.tx ch).queue = [] then putOnLine ch x s else s.withTx ch x) with mm := { s.mm with
            directory := s.mm.directory.set m { s.mm.directory[m] with busy := s.mm.directory[m].busy + 1 } } }).answered
              .ok) ∧
        x.queue = (s.tx ch).queue ++ [.send m .host notify] ∧
        ((s.tx ch).queue = [] → x.hasBegun s.mm false) ∧
        ((s.tx ch).queue ≠ [] → x = { s.tx ch with queue := x.queue }))) ∧
    (∀ code : ResultCode,
      code =
        (if length = 0 then .badArg
        else if (s.chan ch).config.txEnable = false then .badState
        else if 8 ≤ (s.tx ch).queue.length then .full
        else .ok) →
      (code ≠ .ok → exec .chBreak s = .next (s.answered code)) ∧
      (code = .ok → ∃ x : Transmitter, exec .chBreak s =
          .next ((if (s.tx ch).queue = [] then putOnLine ch x s else s.withTx ch x).answered .ok) ∧
        x.queue = (s.tx ch).queue ++ [.brk length] ∧
        ((s.tx ch).queue = [] → x.hasBegun s.mm false) ∧
        ((s.tx ch).queue ≠ [] → x = { s.tx ch with queue := x.queue })))

/-- CH_ABORT and CH_TX_RESET (R107, R109): the head stops at its next boundary; at a transmit reset the requests behind it
leave, each SEND among them lowering its message's busy count and posting TX_ABORTED with 0 bytes where it asks for it, which
is kept or lost (R167). -/
def Obligations.AbortsStopTheHeadAndEmptyTheQueue : Prop :=
  ∀ s : State, s.portReady →
    (2 ≤ s.biu.arg.toNat → exec .chAbort s = .next (s.answered .badArg) ∧ exec .chTxReset s = .next (s.answered .badArg)) ∧
    ∀ ch : Channel, s.biu.arg = channelCode ch →
    ∀ stopped : TxState,
      stopped = (if (s.tx ch).state = .sending ∨ (s.tx ch).state = .breaking then .stopping else (s.tx ch).state) →
      exec .chAbort s = .next ((s.withTx ch { s.tx ch with state := stopped }).answered .ok) ∧
      ((s.tx ch).queue = [] →
        exec .chTxReset s = .next ((s.withTx ch { s.tx ch with state := stopped }).answered .ok)) ∧
      (∀ (head : Request) (waiting : List Request), (s.tx ch).queue = head :: waiting →
        ∃ t : State, exec .chTxReset s = .next (t.answered .ok) ∧
          t.tx ch = { s.tx ch with state := stopped, queue := [head] } ∧
          t = { s.withTx ch (t.tx ch) with mm := { s.mm with directory := t.mm.directory }, niu := t.niu } ∧
          (∀ m : Fin 32, t.mm.directory[m] = { s.mm.directory[m] with
            busy := s.mm.directory[m].busy - (waiting.filter (Request.names m)).length }) ∧
          t.niu = s.niu.took s.present (waiting.filterMap fun r =>
            match r with
            | .send m source true => some (.txAborted ch m source 0)
            | _ => none))

/-- CH_READ and LOOP_SET (R112, R128, R110, R115). The gap count of a frame that waits between characters has risen by bit
times that no command counts: the copy shows a count from there on and below the frame's end (log 9), and the count itself
while the input stands at 0 where the receiver has come to (R123), where a level that no event has told is known from the CH_READ on (logs 9 and 17); with the
cross-loop on it has risen by no more than the other transmitter's line has stood at 1 (log 18). The CHANNEL page shows the
copy (R196), its terminator byte 0 where no terminator is set (the model's choice, log 20), and TXA and TXB carry what their
transmitters put out, a character bit by bit (R97), but mark with the cross-loop on (R111). -/
def Obligations.ChannelCopyAndCrossLoop : Prop :=
  (∀ s : State, s.biu.page = 2 → s.pageShows (channelFields s.ser.copy)) ∧
  [DataBits.seven, .eight].map DataBits.code = [7, 8] ∧ [Parity.none, .even, .odd].map Parity.code = [0, 1, 2] ∧
  [StopBits.one, .two].map StopBits.code = [1, 2] ∧
  [TxState.idle, .sending, .breaking, .stopping].map TxState.code = [0, 1, 2, 3] ∧
  [RxState.idle, .inFrame, .inChar, .brk].map RxState.code = [0, 1, 2, 3] ∧
  [FramePart.none, .opened, .dropped].map FramePart.code = [0, 1, 2] ∧
  (∀ (s : State) (ch : Channel), s.txPin ch =
    (if s.power.vmainGood then some (if s.ser.loop then .mark else (s.tx ch).out) else none)) ∧
  (∀ (c : ChannelConfig) (b : Byte) (n : Nat) (parity : List Bool), n = (if c.dataBits = .seven then 7 else 8) →
    parity = (match c.parity with
      | .none => []
      | .even => [decide (((List.range n).filter fun i => b.getLsbD i).length % 2 = 1)]
      | .odd => [decide (((List.range n).filter fun i => b.getLsbD i).length % 2 = 0)]) →
    c.characterBits b = [false] ++ ((List.range n).map fun i => b.getLsbD i) ++ parity ++
      List.replicate (if c.stopBits = .one then 1 else 2) true) ∧
  ∀ s : State, s.portReady →
    (2 ≤ s.biu.arg.toNat → exec .chRead s = .next (s.answered .badArg) ∧ exec .loopSet s = .next (s.answered .badArg)) ∧
    (∀ ch : Channel, s.biu.arg = channelCode ch → ∃ (copy : ChannelCopy) (draws : Nat) (input : Option Bool), exec .chRead s =
        .next (({ s.withRx ch { s.rx ch with gap := copy.gap, input := input } with
          ser := { (s.withRx ch { s.rx ch with gap := copy.gap, input := input }).ser with copy := copy },
          gapDraws := draws }).answered .ok) ∧
      copy.channel = ch ∧ copy.config = (s.chan ch).config ∧ copy.loop = s.ser.loop ∧ copy.txState = (s.tx ch).state ∧
      copy.queued = (s.tx ch).queue.length ∧ copy.head.request = (s.tx ch).queue.head? ∧
      copy.head.byteIndex = (s.tx ch).byteIndex ∧ copy.head.breakRemaining = (s.tx ch).breakRemaining ∧
      copy.head.elapsed = (s.tx ch).elapsed ∧ copy.rxState = (s.rx ch).state ∧ copy.frame = (s.rx ch).frame ∧
      copy.chars = (s.rx ch).chars ∧ copy.flags = (s.rx ch).flags ∧ copy.markQualified = (s.rx ch).markQualified ∧
      copy.rules = (s.rx ch).rules ∧ copy.rising = s.evi.rising ∧ copy.falling = s.evi.falling ∧
      copy.samples = s.evi.last ∧
      ((s.rx ch).state ≠ .inFrame ∨ (s.rx ch).lowWatch.isSome = true →
        copy.gap = (s.rx ch).gap ∧ draws = s.gapDraws ∧ input = (s.rx ch).input) ∧
      ((s.rx ch).input ≠ none → input = (s.rx ch).input) ∧
      (s.ser.loop = false → s.hears ch → (s.rx ch).state = .inFrame → (s.rx ch).lowWatch = none →
        input ≠ none ∧ (input = some false → copy.gap = (s.rx ch).gap)) ∧
      (¬ s.mayBeAtMark ch → copy.gap = (s.rx ch).gap) ∧
      (∀ line m, s.lineShows ch line → (s.rx ch).place.mark = some m → copy.gap ≤ max (s.rx ch).gap
        ((m + line.count true * (2 * (s.chan (otherChannel ch)).config.divisor)) / (2 * (s.chan ch).config.divisor))) ∧
      ((s.rx ch).gap < (s.rx ch).rules.gap * (s.chan ch).config.charBits →
        (s.rx ch).gap ≤ copy.gap ∧ copy.gap < (s.rx ch).rules.gap * (s.chan ch).config.charBits)) ∧
    (∀ setting : Bool, s.biu.arg = bitByte setting →
      exec .loopSet s =
        .next (if (s.tx .a).state ≠ .idle ∨ (s.tx .b).state ≠ .idle ∨
              (s.rx .a).state = .inChar ∨ (s.rx .a).state = .brk ∨ (s.rx .b).state = .inChar ∨ (s.rx .b).state = .brk
            then s.answered .badState
          else if setting = s.ser.loop then s.answered .ok
          else ({ s with ser := { s.ser with
            loop := setting
            chans := {
              a := { s.chan .a with rx := (s.rx .a).afresh (if setting then some true else none) }
              b := { s.chan .b with rx := (s.rx .b).afresh (if setting then some true else none) } } } }).answered .ok))

/-! ## Receivers and event inputs -/

/-- The levels at a receiver's input (R116, R118, R119, R123): a fall begins the low watch, ends mark qualification, and is a
start bit where mark was qualified; a rise clears the low watch and ends BREAK; a bit time of mark qualifies. With the
cross-loop on, the input moves only as the other transmitter's line does: each of its falls is heard once and none is passed over,
unless the receiver has begun to watch at a moment that no row counts, and a fall comes behind all that the receiver has to hear
before it: a sample of the character in hand, a bit time of mark that qualifies it, the end of its gap. The input rises where the
low in hand ends on that line, and not before a low that lasts a character time has been taken as a break (R118). A bit time of
mark is one of the bits of 1 on it (R111; which of its bits fell is an operand, and the place that the receiver has come to on the
line the model's field, log 18). The level known of the input is the model's field (log 17). -/
def Obligations.InputLevelsMoveTheReceiver : Prop :=
  ∀ (s : State) (ch : Channel) (fall : Fall), s.hears ch →
    (∀ heard place, (s.rx ch).lowWatch = none → (s.rx ch).input ≠ some false → s.fallBegins ch fall.bit.val heard place →
      ((s.rx ch).state = .idle → exec (.rxFall ch fall) s = .next (s.withRx ch { s.rx ch with
        state := if (s.rx ch).markQualified then .inChar else .idle
        noted := some s.present
        markQualified := false
        lowWatch := some { stamp := s.present, byStartBit := (s.rx ch).markQualified, looped := heard }
        input := some false
        looped := heard
        place := place
        startConfirmed := false })) ∧
      ((s.rx ch).state = .inFrame → exec (.rxFall ch fall) s = .next (s.withRx ch { s.rx ch with
        state := if (s.rx ch).markQualified then .inChar else .inFrame
        gap := gapRaised s ch fall.markBits.toNat (fall.bit.val * lineUnit s ch)
        markQualified := false
        lowWatch := some { stamp := s.present, byStartBit := (s.rx ch).markQualified, looped := heard }
        input := some false
        looped := heard
        place := place
        startConfirmed := false })) ∧
      ((s.rx ch).state = .inChar → exec (.rxFall ch fall) s = .next (s.withRx ch { s.rx ch with
        markQualified := false, lowWatch := some { stamp := s.present, byStartBit := false, looped := heard },
        input := some false, place := place }))) ∧
    ((s.rx ch).lowWatch.isSome = true ∨ (s.rx ch).input = some false ∨
        (∀ heard place, ¬ s.fallBegins ch fall.bit.val heard place) →
      exec (.rxFall ch fall) s = .next s) ∧
    (s.ser.loop = false → ∀ bitTimes moment, gapRaised s ch bitTimes moment = max (s.rx ch).gap
      (min ((s.rx ch).gap + bitTimes) ((s.rx ch).rules.gap * (s.chan ch).config.charBits - 1))) ∧
    (∀ place, placeAtRise s ch = some place →
      ((s.rx ch).state ≠ .brk →
        exec (.rxRise ch) s = .next (s.withRx ch { s.rx ch with lowWatch := none, input := some true, place := place })) ∧
      ((s.rx ch).state = .brk → exec (.rxRise ch) s = .next (s.withRx ch { s.rx ch with
        state := .idle, markQualified := false, lowWatch := none, input := some true, place := place }))) ∧
    (s.ser.loop = false → placeAtRise s ch = some (s.rx ch).place) ∧
    (∀ low h, s.ser.loop = true → (s.rx ch).lowWatch = some low → low.looped = some h →
      ((∀ b ∈ h.bits, b = false) → (∃ since, h.after = .carries since) → exec (.rxRise ch) s = .next s) ∧
      ((s.rx ch).state ≠ .brk → s.mayLastLow ch low → exec (.rxRise ch) s = .next s) ∧
      (1 ≤ h.divisor → true ∈ h.bits → s.mayStandAt ch true → (s.rx ch).state = .brk ∨ ¬ s.mayLastLow ch low →
        ∃ t, exec (.rxRise ch) s = .next t ∧ (t.rx ch).lowWatch = none)) ∧
    ((s.rx ch).state ≠ .brk → (s.rx ch).lowWatch = none → (s.rx ch).input ≠ some false →
      (∀ place, placeAtMark s ch = some place → exec (.markQualified ch) s =
        .next (s.withRx ch { s.rx ch with markQualified := true, input := some true, place := place })) ∧
      (s.ser.loop = false ∨ (s.tx (otherChannel ch)).out = .mark → exec (.markQualified ch) s =
        .next (s.withRx ch { s.rx ch with markQualified := true, input := some true }))) ∧
    (placeAtMark s ch = none ∨ s.hasNoMark ch → exec (.markQualified ch) s = .next s) ∧
    (placeAtRise s ch = none ∨ ¬ s.mayStandAt ch true → exec (.rxRise ch) s = .next s) ∧
    (¬ s.mayBeAtMark ch → exec (.markQualified ch) s = .next s) ∧
    (∀ i : Nat, (s.rx ch).place.tracked = true → s.fallLeft ch i →
      (i < fall.bit.val → exec (.rxFall ch fall) s = .next s) ∧
      (∀ place, placeAtMark s ch = some place →
        place.heard ≤ max (s.rx ch).place.heard (i * (2 * (s.chan (otherChannel ch)).config.divisor)))) ∧
    (∀ before : Nat, s.ser.loop = true → (s.rx ch).place.tracked = true → (s.rx ch).place.whole = true →
      (s.rx ch).place.before = some before →
      (s.chan ch).config.divisor ≤ before * (s.chan (otherChannel ch)).config.divisor →
      (s.rx ch).state = .idle ∨ (s.rx ch).state = .inFrame → (s.rx ch).markQualified = false → fall.bit.val = 0 →
      exec (.rxFall ch fall) s = .next s) ∧
    (s.ser.loop = true →
      ((s.rx ch).state = .inChar ∧ (∃ h, (s.rx ch).looped = some h ∧
          sampleDue s ch h (sinceFall s ch h fall.bit.val) = true) ∨
        (s.rx ch).state = .inFrame ∧ (s.rx ch).place.tracked = true ∧
          (∃ m, markHeard s ch (fall.bit.val * lineUnit s ch) = some m ∧
            2 * (s.chan ch).config.divisor * ((s.rx ch).rules.gap * (s.chan ch).config.charBits) < m)) →
      exec (.rxFall ch fall) s = .next s)

/-- The middle of a start bit (R116, R120, R136): at 1 the start is false; at 0 it is confirmed, and heard outside a frame it
starts one, stamped at its fall, which is OPEN where a record slot is free, its bytes to come behind those its ring holds
(R135), and DROPPED and counted where none is. With the cross-loop on the sample is one that the other transmitter gives
(R111), and any other changes nothing: half a bit time after the fall it is the bit that the line then carries, 1 where the
line rests after its last bit, none that the line has not come to yet, and past its last bit none that it does not now carry. The
place on the line is the model's field (log 18). -/
def Obligations.StartBitStartsAFrame : Prop :=
  ∀ (s : State) (ch : Channel), s.hears ch → (s.rx ch).state = .inChar → (s.rx ch).startConfirmed = false →
    (∀ level, s.ser.loop = true → samplesCanBe s ch 1 [level] = false → exec (.startBitSample ch level) s = .next s) ∧
    (∀ (level : Bool) (h : LoopHeard) (d unit : Nat), s.ser.loop = true → (s.rx ch).looped = some h →
      d = (s.chan ch).config.divisor → unit = 2 * h.divisor → 1 ≤ unit →
      ((∃ b, h.bits[d / unit]? = some b ∧ d % unit ≠ 0 ∧ b ≠ level) ∨
        (h.bits.length * unit ≤ d ∧ h.after = .rest ∧ level = false) ∨
        (h.bits.length * unit < d ∧ ∃ since, h.after = .carries since) ∨
        (h.bits.length * unit ≤ d ∧ ¬ s.mayStandAt ch level)) →
      exec (.startBitSample ch level) s = .next s) ∧
    (s.ser.loop = false ∨ samplesCanBe s ch 1 [true] = true →
      exec (.startBitSample ch true) s = .next (s.withRx ch (
        if (s.rx ch).frame = .none then
          { s.rx ch with
            state := .idle, noted := none, lowWatch := none, input := some true, place := placeAtSample s ch 1 }
        else { s.rx ch with
          state := .inFrame, lowWatch := none, input := some true, place := placeAtSample s ch 1 }))) ∧
    (s.ser.loop = false ∨ samplesCanBe s ch 1 [false] = true →
      ((s.rx ch).frame ≠ .none →
        exec (.startBitSample ch false) s =
          .next (s.withRx ch { s.rx ch with startConfirmed := true, place := placeAtSample s ch 1 })) ∧
      (∀ stamp, (s.rx ch).frame = .none → (s.rx ch).noted = some stamp →
        s.cu.opened.a.toList.length + s.cu.opened.b.toList.length + s.cu.queue.length < 32 →
        exec (.startBitSample ch false) s =
          .next { s.withRx ch { s.rx ch with
                    startConfirmed := true, chars := 0, flags := { parity := false, framing := false }, frame := .opened,
                    place := placeAtSample s ch 1 } with
                  cu := { s.cu with opened := s.cu.opened.set ch (some {
                    source := .frame ch, stamp := stamp, length := 0,
                    flags := { parity := false, framing := false, brk := false, truncated := false },
                    endCause := none, matched := [],
                    place := ((s.cu.rings.get ch).start + (s.cu.rings.get ch).held.length) % 512 }) } }) ∧
      ((s.rx ch).frame = .none →
        32 ≤ s.cu.opened.a.toList.length + s.cu.opened.b.toList.length + s.cu.queue.length →
        exec (.startBitSample ch false) s =
          .next { s.withRx ch { s.rx ch with
                    startConfirmed := true, chars := 0, flags := { parity := false, framing := false }, frame := .dropped,
                    place := placeAtSample s ch 1 } with
                  cu := { s.cu with dropped := s.cu.dropped.set ch (min (s.cu.dropped.get ch + 1) 255) }
                  niu := { s.niu with faults := s.niu.faults ||| 0x04 } }))

/-- A complete character (R117, R122, R124, R138): it is counted, its errors are added to the frame flags, its byte is stored or
discarded, and it ends the frame at the terminator or at the maximum length, where its record closes with the rules that match
it, their arm requests and their misses (R154 to R160). Where the input has stood at 0 since the start bit's fall for the whole
character time it is a break and no character (R117, R118). With the cross-loop on its samples are ones that the other transmitter
gives, any other changes nothing, channels configured alike hear the characters as sent and each of them once, and past the last
bit sent nothing is heard yet, or only the mark at which the line rests (R111). That the gap count restarts in this event is the
model's choice (log 9: R117 and R123 restart it at the end of the character time, which no row tells), the level known of the
input and the place on the line are the model's fields (logs 17 and 18). -/
def Obligations.CharactersFillAndEndFrames : Prop :=
  ∀ (s : State) (ch : Channel) (data : Byte) (parityBit stopBit : Bool) (c : SerialChannel),
    s.hears ch → s.chan ch = c → c.rx.state = .inChar → c.rx.startConfirmed = true →
    (s.soundsAsBreak ch data parityBit stopBit → exec (.rxCharacterComplete ch data parityBit stopBit) s = .next s) ∧
    (¬ s.soundsAsBreak ch data parityBit stopBit →
    (s.ser.loop = true →
      samplesCanBe s ch (c.config.completeAt stopBit) (c.config.samples data parityBit stopBit) = false →
      exec (.rxCharacterComplete ch data parityBit stopBit) s = .next s) ∧
    (∀ (h : LoopHeard) (unit : Nat), s.ser.loop = true → c.rx.looped = some h → unit = 2 * h.divisor → 1 ≤ unit →
      (h.after = .rest ∧ ∃ k, (c.config.samples data parityBit stopBit)[k]? = some false ∧
        h.bits.length * unit < (2 * k + 1) * c.config.divisor) ∨
      ((∃ since, h.after = .carries since) ∧ h.bits.length * unit < c.config.completeAt stopBit * c.config.divisor) →
      exec (.rxCharacterComplete ch data parityBit stopBit) s = .next s) ∧
    (∀ b more after, s.ser.loop = true → 1 ≤ c.config.divisor →
      c.rx.looped = some { bits := c.config.characterBits b ++ more, divisor := c.config.divisor, after := after } →
      (samplesCanBe s ch (c.config.completeAt stopBit) (c.config.samples data parityBit stopBit) = true ↔
        stopBit = true ∧ c.config.dataOf data = c.config.dataOf b ∧
          (c.config.parity = .none ∨ c.config.parityBit b = some parityBit))) ∧
    (∀ b t fall, s.ser.loop = true → 1 ≤ c.config.divisor → (s.chan (otherChannel ch)).config.divisor = c.config.divisor →
      s.lineCarries ch (c.config.characterBits b) →
      c.rx.looped = some { bits := c.config.characterBits b, divisor := c.config.divisor, after := .carries 0 } →
      samplesCanBe s ch (c.config.completeAt stopBit) (c.config.samples data parityBit stopBit) = true →
      exec (.rxCharacterComplete ch data parityBit stopBit) s = .next t → exec (.rxFall ch fall) t = .next t) ∧
    (s.ser.loop = false ∨
      samplesCanBe s ch (c.config.completeAt stopBit) (c.config.samples data parityBit stopBit) = true →
    ∀ (byte : Byte) (ones : Nat) (wrong : Bool) (cause : Option EndCause) (heard : Receiver),
      byte = (if c.config.dataBits = .seven then data &&& 0x7F else data) →
      ones = ((List.range c.config.dataBits.count).filter fun i => data.getLsbD i).length + (bitByte parityBit).toNat →
      wrong = (match c.config.parity with
        | .none => false
        | .even => ones % 2 == 1
        | .odd => ones % 2 == 0) →
      cause = (if c.rx.rules.terminator = some byte then some .terminator
        else if c.rx.rules.maxLength ≤ c.rx.chars + 1 then some .maxLength else none) →
      heard = { c.rx with
        state := .inFrame, chars := c.rx.chars + 1,
        flags := { parity := c.rx.flags.parity || wrong, framing := c.rx.flags.framing || !stopBit },
        gap := 0, markQualified := stopBit, lowWatch := if stopBit then none else c.rx.lowWatch,
        input := if stopBit then some true else c.rx.input, startConfirmed := false,
        place := placeAtCharacter s ch stopBit } →
      (c.rx.frame ≠ .opened → exec (.rxCharacterComplete ch data parityBit stopBit) s =
        .next (s.withRx ch (if cause = none then heard else heard.cleared .idle))) ∧
      (∀ r, c.rx.frame = .opened → s.cu.opened.get ch = some r → ∃ (u t : State),
        (r.flags.truncated = false ∧ (s.cu.rings.get ch).held.length < 512 →
          u.cu = { s.cu with
            rings := s.cu.rings.set ch { s.cu.rings.get ch with held := (s.cu.rings.get ch).held ++ [byte] }
            opened := s.cu.opened.set ch (some { r with length := r.length + 1 }) }) ∧
        (¬ (r.flags.truncated = false ∧ (s.cu.rings.get ch).held.length < 512) →
          u.cu = { s.cu with
            opened := s.cu.opened.set ch (some { r with flags := { r.flags with truncated := true } }) }) ∧
        u = { s.withRx ch heard with cu := u.cu } ∧
        exec (.rxCharacterComplete ch data parityBit stopBit) s = .next t ∧
        (cause = none → t = u) ∧
        (∀ end1 r', cause = some end1 → u.cu.opened.get ch = some r' →
          u.frameClosed t ch r' end1 ∧ u.sameButReception t ch ∧ t.rx ch = heard.cleared .idle))))

/-- GAP_EXPIRY and BREAK_DETECTED (R118, R121, R123, R125): they end the frame in hand, closing its record where it is OPEN, with
the rules that match it, their arm requests and their misses (R154 to R160); a break heard in IDLE is a zero-length record of
its own, stamped at the fall, or is dropped. With the cross-loop on, a low is no break unless the other transmitter has put out 0
for a whole character time since its fall, as no character sent at this channel's settings does, in IN_CHAR it is the low of the
start bit, and no gap runs out once the receiver has come to where that transmitter holds its line at 0, or where that line has not stood at 1 for the gap's length since the last character (R111, log 18). -/
def Obligations.GapsAndBreaksEndFrames : Prop :=
  ∀ (s : State) (ch : Channel), s.hears ch →
    (∀ (c : Instr) (cause : EndCause) (next : RxState) (place : LinePlace),
      (c = .gapExpiry ch ∧ cause = .gap ∧ next = .idle ∧ (s.rx ch).state = .inFrame ∧ (s.rx ch).lowWatch = none ∧
        (s.rx ch).input ≠ some false ∧ placeAtGap s ch = some place ∨
       c = .breakDetected ch ∧ cause = .brk ∧ next = .brk ∧ place = (s.rx ch).place ∧
        ∃ low, (s.rx ch).lowWatch = some low ∧ s.mayLastLow ch low ∧
          ((s.rx ch).state = .inFrame ∨
            (s.rx ch).state = .inChar ∧ (s.rx ch).startConfirmed = true ∧ low.byStartBit = true)) →
      ((s.rx ch).frame ≠ .opened → exec c s = .next (s.withRx ch { (s.rx ch).cleared next with place := place })) ∧
      (∀ r, (s.rx ch).frame = .opened → s.cu.opened.get ch = some r → ∃ t, exec c s = .next t ∧
        s.frameClosed t ch r cause ∧ s.sameButReception t ch ∧ t.rx ch = { (s.rx ch).cleared next with place := place })) ∧
    (s.ser.loop = false ∨ (s.tx (otherChannel ch)).out = .mark ∨ (s.rx ch).place.mark = none ∧ s.mayBeAtMark ch →
      placeAtGap s ch = some (s.rx ch).place) ∧
    (∀ line m, s.lineShows ch line → (s.rx ch).place.mark = some m →
      m + line.count true * (2 * (s.chan (otherChannel ch)).config.divisor) <
        2 * (s.chan ch).config.divisor * ((s.rx ch).rules.gap * (s.chan ch).config.charBits) →
      exec (.gapExpiry ch) s = .next s) ∧
    ((s.rx ch).lowWatch = none ∨
        (∃ low, (s.rx ch).lowWatch = some low ∧
          (¬ s.mayLastLow ch low ∨ (s.rx ch).state = .inChar ∧ low.byStartBit = false)) →
      exec (.breakDetected ch) s = .next s) ∧
    ((s.rx ch).input = some false ∨ ¬ s.mayBeAtMark ch ∨ placeAtGap s ch = none → exec (.gapExpiry ch) s = .next s) ∧
    (∀ b more after low, s.ser.loop = true → 1 ≤ (s.chan ch).config.divisor → (s.rx ch).lowWatch = some low →
      low.looped = some { bits := (s.chan ch).config.characterBits b ++ more, divisor := (s.chan ch).config.divisor,
                          after := after } →
      exec (.breakDetected ch) s = .next s) ∧
    (∀ low, (s.rx ch).state = .idle → (s.rx ch).lowWatch = some low → s.mayLastLow ch low →
      (s.cu.opened.a.toList.length + s.cu.opened.b.toList.length + s.cu.queue.length < 32 →
        exec (.breakDetected ch) s =
          .next { s.withRx ch { s.rx ch with state := .brk } with
            cu := { s.cu with queue := s.cu.queue ++ [{
              source := .frame ch, stamp := low.stamp, length := 0,
              flags := { parity := false, framing := false, brk := true, truncated := false },
              endCause := some .brk, matched := [],
              place := ((s.cu.rings.get ch).start + (s.cu.rings.get ch).held.length) % 512 }] } }) ∧
      (32 ≤ s.cu.opened.a.toList.length + s.cu.opened.b.toList.length + s.cu.queue.length →
        exec (.breakDetected ch) s =
          .next { s.withRx ch { s.rx ch with state := .brk } with
            cu := { s.cu with dropped := s.cu.dropped.set ch (min (s.cu.dropped.get ch + 1) 255) }
            niu := { s.niu with faults := s.niu.faults ||| 0x04 } }))

/-- CH_RX_RESET and EV_CONFIG (R127, R142, R131): the frame in hand is abandoned with its slot and its bytes, the receiver is
IDLE and watches afresh (the level it knows of its input is the model's field, log 17); the eight enables take their staged
bits. -/
def Obligations.ReceiverResetAbandonsItsFrame : Prop :=
  ∀ s : State, s.portReady →
    (2 ≤ s.biu.arg.toNat → exec .chRxReset s = .next (s.answered .badArg)) ∧
    (∀ ch : Channel, s.biu.arg = channelCode ch → ∀ (cu : Capture),
      cu = (match s.cu.opened.get ch with
        | none => s.cu
        | some r => { s.cu with
            opened := s.cu.opened.set ch none
            rings := s.cu.rings.set ch { s.cu.rings.get ch with
              held := (s.cu.rings.get ch).held.take ((s.cu.rings.get ch).held.length - r.length) } }) →
      exec .chRxReset s = .next (({ s.withRx ch (((s.rx ch).cleared .idle).afresh (inputKnown s ch)) with cu := cu }).answered .ok)) ∧
    (∃ rising falling : BitVec 4, exec .evConfig s =
        .next (({ s with evi := { s.evi with rising := rising, falling := falling } }).answered .ok) ∧
      rising.toNat = (stagedByte s.ser.staging 14).toNat % 16 ∧
      falling.toNat = (stagedByte s.ser.staging 14).toNat / 16)

/-- EDGE_GROUP (R130, R140): the edges of one tick are offered as one group in line order; the first ones find the free slots
and join the tail of the queue as closed records, and the others are dropped and counted. -/
def Obligations.EdgeGroupsFillTheFreeSlots : Prop :=
  ∀ (s : State) (g : EdgeGroup) (rest : List EdgeGroup) (free : Nat), s.mainUp → s.evi.found = g :: rest →
    s.cu.opened.a.toList.length + s.cu.opened.b.toList.length + s.cu.queue.length + free = 32 →
    s.cu.droppedEv ≤ 255 →
    ∃ (t : State) (added : List CaptureRecord), exec .edgeGroup s = .next t ∧
      t.evi = { s.evi with found := rest } ∧
      t.cu = { s.cu with queue := s.cu.queue ++ added,
                         droppedEv := min (s.cu.droppedEv + (g.edges.length - free)) 255 } ∧
      (added.map fun r => (r.source, r.stamp, r.length, r.endCause)) =
        ((g.edges.take free).map fun e => (CaptureSource.edge e.1 e.2, g.stamp, 0, none)) ∧
      (free < g.edges.length → t.faultSet .captureLost = true) ∧
      (g.edges.length ≤ free → t.faultSet .captureLost = s.faultSet .captureLost) ∧
      t = { s with evi := t.evi, cu := t.cu, tu := t.tu, niu := t.niu }

/-! ## Capture queue -/

/-- CAP_POP and CAP_FLUSH (R143, R146): a pop frees the bytes of the record read before, from the oldest place of their ring on
(R137), and moves the head into the window; a flush leaves of each ring the bytes of its open record alone. The CAPTURE page
shows the window (R144, R196). -/
def Obligations.CapturePopAndFlush : Prop :=
  (∀ s : State, s.biu.page = 5 → s.pageShows (captureFields s.cu.window)) ∧
  [EndCause.gap, .terminator, .maxLength, .brk].map EndCause.code = [1, 2, 3, 4] ∧
  ∀ s : State, s.portReady →
    (s.cu.queue = [] → exec .capPop s = .next (s.answered .empty)) ∧
    (∀ r rest, s.cu.queue = r :: rest → ∃ rings : PerChannel Ring, exec .capPop s =
        .next (({ s with cu := { s.cu with window := some r, queue := rest, readIndex := 0, rings := rings } }).answered
          .ok) ∧
      ∀ ch (n : Nat), (s.cu.rings.get ch).start < 512 → n = heldBy ch s.cu.window.toList → rings.get ch =
        { start := ((s.cu.rings.get ch).start + min n (s.cu.rings.get ch).held.length) % 512,
          held := (s.cu.rings.get ch).held.drop n }) ∧
    (∃ rings : PerChannel Ring, exec .capFlush s =
        .next (({ s with cu := { s.cu with
          queue := [], window := none, readIndex := 0, dropped := { a := 0, b := 0 }, droppedEv := 0,
          rings := rings } }).answered .ok) ∧
      ∀ ch (n : Nat), (∀ r, s.cu.opened.get ch = some r → r.source = .frame ch) →
        n = (s.cu.rings.get ch).held.length - heldBy ch (s.cu.opened.get ch).toList → rings.get ch =
        { start := ((s.cu.rings.get ch).start + n) % 512, held := (s.cu.rings.get ch).held.drop n })

/-- CAP_DATA (R145) after a CAP_POP of a frame (R143): reads that follow each other return the record's bytes in order, taken
from its place in its ring, and past its end 0 with the index unchanged. -/
def Obligations.CaptureDataReadsInOrder : Prop :=
  ∀ s : State, s.busReady →
    (∀ r ch, s.cu.window = some r → r.source = .frame ch → s.cu.readIndex < r.length →
      (s.cu.rings.get ch).start < 512 → r.place = (s.cu.rings.get ch).start → r.length ≤ (s.cu.rings.get ch).held.length →
      (s.cu.rings.get ch).held.length ≤ 512 →
      ∃ byte, (s.cu.rings.get ch).held[s.cu.readIndex]? = some byte ∧
        exec (.capDataRead .whole) s =
          .next { s with cu := { s.cu with readIndex := s.cu.readIndex + 1 }, hostRead := some byte }) ∧
    ((∀ r, s.cu.window = some r → r.length ≤ s.cu.readIndex) →
      exec (.capDataRead .whole) s = .next { s with hostRead := some 0 })

/-! ## Triggers -/

/-- TRIG_WRITE, TRIG_READ and TRIG_DISABLE (R151, R152, R153): the checks in their order; a written or disabled rule's waiting
requests are detached from it (R158). The TRIGGER page shows the copy (R194, R196). -/
def Obligations.TriggerCommandsFollowTheirChecks : Prop :=
  (∀ s : State, s.biu.page = 4 → s.pageShows (triggerFields s.tu.copy)) ∧
  (∀ ch, TriggerSource.code (.frame ch) = channelCode ch) ∧
  (∀ n : Fin 4, TriggerSource.code (.edge n .rising) = BitVec.ofNat 8 (2 + 2 * n.val) ∧
    TriggerSource.code (.edge n .falling) = BitVec.ofNat 8 (3 + 2 * n.val)) ∧
  ∀ s : State, s.portReady →
    (8 ≤ s.biu.arg.toNat →
      ∀ c ∈ [Instr.trigWrite, .trigRead, .trigDisable], exec c s = .next (s.answered .badArg)) ∧
    ∀ k : Fin 8, s.biu.arg.toNat = k.val →
    ∀ detached : List (List ArmRequest),
      detached = (s.tu.answers.map fun g => g.map fun q => { q with current := q.current && q.rule != k }) →
      exec .trigRead s =
        .next (({ s with tu := { s.tu with copy := { number := k, rule := s.tu.rules[k] } } }).answered .ok) ∧
      exec .trigDisable s =
        .next (({ s with tu := { s.tu with
          rules := s.tu.rules.set k { s.tu.rules[k] with enabled := false }, answers := detached } }).answered .ok) ∧
      ∀ source len target enabled oneShot : Nat,
        (stagedByte s.tu.staging 1).toNat = source → (stagedByte s.tu.staging 2).toNat = len →
        (stagedByte s.tu.staging 7).toNat = target → (stagedByte s.tu.staging 0).toNat = enabled →
        (stagedByte s.tu.staging 10).toNat = oneShot →
        (10 ≤ source ∨ 4 < len ∨ 1 ≤ len ∧ 2 ≤ source ∨ 64 ≤ target ∨ 2 ≤ enabled ∨ 2 ≤ oneShot →
          exec .trigWrite s = .next (s.answered .badArg)) ∧
        (source < 10 → len ≤ 4 → (len = 0 ∨ source < 2) → target < 64 → enabled < 2 → oneShot < 2 →
          ∃ rule : Rule, exec .trigWrite s =
              .next (({ s with tu := { s.tu with rules := s.tu.rules.set k rule, answers := detached } }).answered .ok) ∧
            rule.source.code.toNat = source ∧ rule.prefixBytes = (s.tu.staging.toList.drop 3).take len ∧
            rule.target.val = target ∧ rule.delay = stagedValue s.tu.staging 8 2 ∧
            (rule.enabled = true ↔ enabled = 1) ∧ (rule.oneShot = true ↔ oneShot = 1) ∧ rule.miss = false)

/-- The edges of one group (R130), however many, one after the other in line order: what each finds is what the one before it has
left. With a free slot, which rules its record matches (R154), and what its close makes of them (R139, R140, R155 to R158, R160):
requests in rule order for those whose due time is within END while the record's generation is current, and misses for the
others, STALE_TIME or OUT_OF_RANGE, each with its miss flag, its notice and ACTION_REFUSED. With none, it is dropped and counted
(R136). -/
def Obligations.EdgeRecordIsJudgedAtItsClose : Prop :=
  ∀ (s : State) (g : EdgeGroup) (rest : List EdgeGroup), s.mainUp → s.evi.found = g :: rest →
    ∃ taken : Nat → State, taken 0 = { s with evi := { s.evi with found := rest } } ∧
      exec .edgeGroup s = .next (taken g.edges.length) ∧
      ∀ (n : Nat) (line : Fin 4) (dir : EdgeDir) (u t : State) (record : CaptureRecord),
        g.edges[n]? = some (line, dir) → taken n = u → taken (n + 1) = t →
        record = { source := .edge line dir, stamp := g.stamp, length := 0,
                   flags := { parity := false, framing := false, brk := false, truncated := false },
                   endCause := none, matched := [], place := 0 } →
        (u.cu.opened.a.toList.length + u.cu.opened.b.toList.length + u.cu.queue.length < 32 →
          u.recordClosed t record ∧
          (∀ k, ruleMatches u record k = true ↔ u.tu.rules[k].enabled = true ∧ u.tu.rules[k].source = .edge line dir ∧
            ¬ (u.tu.rules[k].oneShot = true ∧ ∃ a ∈ u.tu.answers, ∃ q ∈ a, q.rule = k ∧ q.current = true)) ∧
          (∀ k, ruleMatches u record k = true → g.stamp.generation = s.tb.generation →
            Config.endTime < g.stamp.count + u.tu.rules[k].delay →
            (t.tu.rules[k] : Rule).miss = true ∧ t.faultSet .actionRefused = true) ∧
          (∀ k, ruleMatches u record k = true → g.stamp.generation ≠ s.tb.generation →
            (t.tu.rules[k] : Rule).miss = true ∧ t.faultSet .actionRefused = true ∧ t.tu.answers = u.tu.answers) ∧
          t = { u with cu := { u.cu with queue := t.cu.queue }, tu := t.tu, niu := t.niu }) ∧
        (32 ≤ u.cu.opened.a.toList.length + u.cu.opened.b.toList.length + u.cu.queue.length →
          t = { u with cu := { u.cu with droppedEv := min (u.cu.droppedEv + 1) 255 },
                       niu := { u.niu with faults := u.niu.faults ||| 0x04 } })

/-- Which rules a frame's record matches (R154): its channel's enabled ones, but for a one-shot rule with a current request (R158),
none where a flag is set, and those whose prefix bytes its first bytes are, wherever in the ring they lie. -/
def Obligations.FrameRecordMatchesByItsFirstBytes : Prop :=
  ∀ (s : State) (r : CaptureRecord) (ch : Channel) (k : Fin 8) (rule : Rule) (before : Nat),
    r.source = .frame ch → s.tu.rules[k] = rule →
    (s.cu.rings.get ch).start < 512 → r.place = ((s.cu.rings.get ch).start + before) % 512 →
    before + r.length ≤ (s.cu.rings.get ch).held.length → (s.cu.rings.get ch).held.length ≤ 512 →
    (ruleMatches s r k = true ↔
      rule.enabled = true ∧ rule.source = .frame ch ∧
      ¬ (rule.oneShot = true ∧ ∃ g ∈ s.tu.answers, ∃ q ∈ g, q.rule = k ∧ q.current = true) ∧
      r.flags = { parity := false, framing := false, brk := false, truncated := false } ∧
      rule.prefixBytes.length ≤ r.length ∧
      ((s.cu.rings.get ch).held.drop before).take rule.prefixBytes.length = rule.prefixBytes)

/-! ## Notices, faults and the interrupt line -/

/-- NOTICE_POP, NOTICE_FLUSH and the writes to the Notice and Interrupt Unit's locations (R168, R172, R174, R175, R177, R170);
the NOTICE page shows the copy (R169, R196). -/
def Obligations.NoticeCommandsAndLocations : Prop :=
  (∀ s : State, s.biu.page = 6 → s.pageShows (noticeFields s.niu.copy)) ∧
  [MissReason.staleTime, .outOfRange, .notHeld].map MissReason.code = [1, 2, 3] ∧
  ∀ s : State,
    (s.portReady →
      (s.niu.queue = [] → exec .noticePop s = .next (s.answered .empty)) ∧
      (∀ n rest, s.niu.queue = n :: rest → exec .noticePop s =
        .next (({ s with niu := { s.niu with queue := rest, copy := some n } }).answered .ok)) ∧
      exec .noticeFlush s = .next (({ s with niu := { s.niu with queue := [], lost := 0 } }).answered .ok)) ∧
    (s.busReady → ∀ byte : Byte,
      (∃ faults : BitVec 6, exec (.faultWrite byte) s = .next { s with niu := { s.niu with faults := faults } } ∧
        ∀ n : Fin 6, faults.getLsbD n.val = (s.niu.faults.getLsbD n.val && !byte.getLsbD n.val)) ∧
      (∃ enables : BitVec 6, exec (.faultEnableWrite byte) s =
          .next { s with niu := { s.niu with faultEnable := enables } } ∧
        ∀ n : Fin 6, enables.getLsbD n.val = byte.getLsbD n.val) ∧
      (∃ enables : BitVec 4, exec (.causeEnableWrite byte) s =
          .next { s with niu := { s.niu with causeEnable := enables } } ∧
        ∀ n : Fin 4, enables.getLsbD n.val = byte.getLsbD n.val) ∧
      exec (.noticeThresholdWrite byte) s = .next { s with niu := { s.niu with
        threshold := if byte.toNat = 0 ∨ 33 ≤ byte.toNat then 1 else byte.toNat } })

/-- CAUSE and IRQ_N (R176, R177, R178): IRQ_N is asserted when, and only when, a cause is pending and enabled, which is when
CAUSE reads other than 0, and CAUSE reads the first such cause in the order FAULT, CAPTURE, NOTICE, COMMAND. -/
def Obligations.InterruptLineFollowsTheCauses : Prop :=
  ∀ (s : State) (fault capture notice command : Bool), s.mainUp →
    fault = (decide (s.niu.faults &&& s.niu.faultEnable ≠ 0) && s.niu.causeEnable.getLsbD 0) →
    capture = (decide (s.cu.queue ≠ []) && s.niu.causeEnable.getLsbD 1) →
    notice = (decide (s.niu.threshold ≤ s.niu.queue.length) && s.niu.causeEnable.getLsbD 2) →
    command = (s.biu.cmdDone && s.niu.causeEnable.getLsbD 3) →
    s.irqAsserted = (fault || capture || notice || command) ∧
    (s.irqAsserted = true ↔ s.readLocation 0x04 ≠ 0) ∧
    s.readLocation 0x04 = (if fault then 1 else if capture then 2 else if notice then 3 else if command then 4 else 0)

/-! ## The bus and the command port -/

/-- Read cycles (R181, R182): one whose CS_N rose first takes no side effect, one spoiled by its strobes drives nothing, and one
whose address moved gives its data from one location and its side effect to another. RESULT (R190): a read returns the code
and clears CMD_DONE; where the command in flight completes within the cycle, the host takes the old or the new code and
CMD_DONE stays set. A read cycle that the bus takes drives its location's byte, and one that began before the strobes were all high
after a reset drives nothing (R183, log 15). STATUS (R186) and the common region (R196), the
pointer read copy (R88) among it, read the state, and pages 8 to 255 read 0 (R184). -/
def Obligations.ReadCyclesAndResult : Prop :=
  (∀ s : State,
    s.readLocation 0x00 = BitVec.ofNat 8 (bitsValue [s.au.inFlight.isSome, s.biu.cmdDone, decide (s.tb.run = .running),
      s.tb.valid, decide (s.tb.count = Config.endTime), s.ser.loop]) ∧
    s.readLocation 0x01 = s.biu.page ∧ s.readLocation 0x02 = s.biu.arg ∧ s.readLocation 0x03 = s.biu.result.code ∧
    (s.readLocation 0x05).toNat = s.niu.causeEnable.toNat ∧ (s.readLocation 0x06).toNat = s.niu.faults.toNat ∧
    (s.readLocation 0x07).toNat = s.niu.faultEnable.toNat ∧
    (s.readLocation 0x0B).toNat = s.mm.ptrCopy.toNat ∧
    (s.readLocation 0x08).toNat = s.niu.queue.length % 256 ∧ (s.readLocation 0x09).toNat = s.cu.queue.length % 256 ∧
    (s.readLocation 0x0F).toNat = (if s.biu.arg.toNat % 4 = 0 then s.niu.lost else if s.biu.arg.toNat % 4 = 1 then s.cu.dropped.a
      else if s.biu.arg.toNat % 4 = 2 then s.cu.dropped.b else s.cu.droppedEv) % 256 ∧
    (8 ≤ s.biu.page.toNat → s.pageShows [])) ∧
  ∀ s : State, s.busReady →
    (∀ loc, s.drives false loc = some (s.readLocation loc) ∧ s.drives true loc = none) ∧
    (∀ p ∈ ([(fun cycle => .resultRead cycle .none, 0x03), (.mmPtrLowRead, 0x0A), (.mmDataRead, 0x0C), (.capDataRead, 0x0D)] :
        List ((ReadCycle → Instr) × Location)),
      exec (p.1 .selectFirst) s = .next { s with hostRead := some (s.readLocation p.2) } ∧
      exec (p.1 .bothStrobes) s = .next { s with hostRead := none } ∧
      ∃ t, exec (p.1 .whole) s = .next t ∧ t.hostRead = some (s.readLocation p.2) ∧
        ∀ loc, exec (p.1 (.moved loc)) s = .next { t with hostRead := some (s.readLocation loc) }) ∧
    exec (.resultRead .whole .none) s =
      .next { s with biu := { s.biu with cmdDone := false }, hostRead := some s.biu.result.code } ∧
    (∀ t, s.au.inFlight.isSome = true → exec .agendaCommandCompletion s = .next t →
      t.biu.cmdDone = true ∧
      exec (.resultRead .whole .latchesOld) s = .next { t with hostRead := some s.biu.result.code } ∧
      exec (.resultRead .whole .latchesNew) s = .next { t with hostRead := some t.biu.result.code })

/-- A code that names no command (R191) is accepted and completes with BAD_COMMAND, and no block's state changes; the codes of
RESULT are those of the table. -/
def Obligations.UnknownCodeIsBadCommand : Prop :=
  (∀ (s : State) (code : Byte), s.portReady → commandCodes.contains code = false →
    exec (.unknownCommandCode code) s = .next (s.answered .badCommand)) ∧
  ([ResultCode.ok, .badCommand, .badArg, .badState, .locked, .full, .empty, .outOfRange, .badDate, .reset].map
    ResultCode.code = [0x00, 0x01, 0x02, 0x03, 0x04, 0x05, 0x06, 0x07, 0x08, 0xFF])

/-- A write cycle (R180, R184, R185, R194): to COMMAND it is the command that the code table names; to PAGE and ARG it sets the
byte; in the paged region it changes the one staging byte of the selected page, or nothing; a cycle that is not a write and
one spoiled by its strobes (R182) change nothing. -/
def Obligations.WriteCyclesReachTheirLocation : Prop :=
  ∀ (s : State) (byte : Byte), s.busReady →
    (exec (.registerWrite .taken 0x03 byte) s = exec (commandOfCode byte) s) ∧
    exec (.registerWrite .taken 0x01 byte) s = .next { s with biu := { s.biu with page := byte } } ∧
    exec (.registerWrite .taken 0x02 byte) s = .next { s with biu := { s.biu with arg := byte } } ∧
    (∀ loc ∈ ([0x00, 0x04, 0x09, 0x0D, 0x0E, 0x0F] : List Location), exec (.registerWrite .taken loc byte) s = .next s) ∧
    (∀ (loc : Location) (i : Nat), loc.toNat = 16 + i →
      (s.biu.page = 0 → (h : i < 28) → exec (.registerWrite .taken loc byte) s =
        .next { s with au := { s.au with staging := s.au.staging.set i byte h } }) ∧
      (s.biu.page = 1 → i ≠ 4 → (h : i < 18) → exec (.registerWrite .taken loc byte) s =
        .next { s with tb := { s.tb with staging := s.tb.staging.set i byte h } }) ∧
      (s.biu.page = 2 → (h : i < 15) → exec (.registerWrite .taken loc byte) s =
        .next { s with ser := { s.ser with staging := s.ser.staging.set i byte h } }) ∧
      (s.biu.page = 3 → (h : i < 4) → exec (.registerWrite .taken loc byte) s =
        .next { s with mm := { s.mm with staging := s.mm.staging.set i byte h } }) ∧
      (s.biu.page = 4 → (h : i < 11) → exec (.registerWrite .taken loc byte) s =
        .next { s with tu := { s.tu with staging := s.tu.staging.set i byte h } }) ∧
      (s.biu.page = 7 → (h : i < 5) → exec (.registerWrite .taken loc byte) s =
        .next { s with du := { s.du with staging := s.du.staging.set i byte h } }) ∧
      (∀ p ∈ ([(0, 28), (1, 18), (2, 15), (3, 4), (4, 11), (7, 5)] : List (Nat × Nat)),
        s.biu.page.toNat = p.1 → p.2 ≤ i ∨ p.1 = 1 ∧ i = 4 → exec (.registerWrite .taken loc byte) s = .next s) ∧
      (s.biu.page = 5 ∨ s.biu.page = 6 ∨ 8 ≤ s.biu.page.toNat → exec (.registerWrite .taken loc byte) s = .next s)) ∧
    (∀ loc, exec (.registerWrite .notSelected loc byte) s = .next s ∧
      exec (.registerWrite .bothStrobes loc byte) s = .next s)

/-- A write to COMMAND while the port is BUSY (R189): refused whatever the code, with CMD_OVERRUN set and all else unchanged;
where the completion comes first the port is IDLE and takes the next command. -/
def Obligations.BusyPortRefusesWithOverrun : Prop :=
  ∀ (s : State) (f : InFlight) (code : Byte), s.busReady → s.au.inFlight = some f →
    exec (.registerWrite .taken 0x03 code) s = .next { s with niu := { s.niu with faults := s.niu.faults ||| 1 } } ∧
    exec (commandOfCode code) s = .next { s with niu := { s.niu with faults := s.niu.faults ||| 1 } } ∧
    (∀ t, exec .agendaCommandCompletion s = .next t →
      t.portReady ∧
      exec .agendaCommandCompletion { s with niu := { s.niu with faults := s.niu.faults ||| 1 } } =
        .next { t with niu := { s.niu with faults := s.niu.faults ||| 1 } })

/-- Each of the bus cycles that began before the strobes were all high, after the main domain left its reset, is ignored whole, and
the first one after them is taken (R183; how many there are is an operand, log 15). While VMAIN is below its threshold or
RESET_N is low, no write and no command is taken, a read drives nothing and has no side effect, no event reaches the main
domain, and IRQ_N is released. -/
def Obligations.BusIsIgnoredWhileMainDomainIsDown : Prop :=
  (∀ (s u : State) (n : Nat), s.mainUp → s.power.skipCycles = n + 1 →
      u = { s with power := { s.power with skipCycles := n } } →
    (n = 0 → u.busReady) ∧ (∀ half loc, s.drives half loc = none) ∧
    (∀ code cycle loc byte, exec (commandOfCode code) s = .next u ∧ exec (.registerWrite cycle loc byte) s = .next u) ∧
    (∀ byte, ∀ c ∈ [Instr.mmPtrLowWrite byte, .mmPtrHighWrite byte, .mmDataWrite byte, .faultWrite byte,
      .faultEnableWrite byte, .causeEnableWrite byte, .noticeThresholdWrite byte], exec c s = .next u) ∧
    (∀ cycle, ∀ c ∈ [Instr.mmDataRead cycle, .capDataRead cycle, .mmPtrLowRead cycle, .resultRead cycle .none],
      exec c s = .next { u with hostRead := none })) ∧
  ∀ (s : State), ¬ s.mainUp →
    s.irqAsserted = false ∧ (∀ half loc, s.drives half loc = none) ∧
    (∀ code cycle loc byte, exec (commandOfCode code) s = .next s ∧ exec (.registerWrite cycle loc byte) s = .next s) ∧
    (∀ byte, ∀ c ∈ [Instr.mmPtrLowWrite byte, .mmPtrHighWrite byte, .mmDataWrite byte, .faultWrite byte,
      .faultEnableWrite byte, .causeEnableWrite byte, .noticeThresholdWrite byte], exec c s = .next s) ∧
    (∀ cycle, ∀ c ∈ [Instr.mmDataRead cycle, .capDataRead cycle, .mmPtrLowRead cycle, .resultRead cycle .none],
      exec c s = .next { s with hostRead := none }) ∧
    (∀ c ∈ [Instr.pulseEnd, .occurrence, .edgeGroup, .armRequestGroup, .agendaCommandCompletion], exec c s = .next s) ∧
    (∀ ch fall level data parityBit stopBit, ∀ c ∈ [Instr.txCharacterEnd ch, .txBreakTimeEnd ch, .txLeadEnd ch,
      .rxFall ch fall, .rxRise ch, .markQualified ch, .startBitSample ch level,
      .rxCharacterComplete ch data parityBit stopBit, .gapExpiry ch, .breakDetected ch], exec c s = .next s)

/-- A command that completes at once with a result other than OK changes nothing but RESULT and CMD_DONE, and sets no fault
(R191); every such command answers in the event of its acceptance (R187, R188). -/
def Obligations.RefusedCommandsChangeNothing : Prop :=
  ∀ (s : State) (code : Byte), s.portReady → completesAtOnce code = true →
    ∃ t, exec (commandOfCode code) s = .next t ∧ t.biu.cmdDone = true ∧ t.au.inFlight = none ∧
      t.biu = { s.biu with result := t.biu.result, cmdDone := true } ∧
      (t.biu.result ≠ .ok → t = s.answered t.biu.result)

/-! ## Invariants that every step keeps -/

/-- The agenda stays sound (R20, R22, R24, R29, R39, R40, R61). -/
def Obligations.EveryStepKeepsAgendaSound : Prop :=
  ∀ s t : State, AgendaSound s → step s = .next t → AgendaSound t

/-- For every message, the busy count stays the number of SEND requests naming it in the two transmit queues (R85), a busy
message stays defined, ranges stay in the store, and the queues stay sound (R80, R99, R100, R103). -/
def Obligations.EveryStepKeepsMessagesSound : Prop :=
  ∀ s t : State, MessagesSound s → step s = .next t → MessagesSound t

/-- Open plus closed records never exceed 32, and each ring holds exactly the bytes of its records, one behind the other (R134 to
R137). -/
def Obligations.EveryStepKeepsCaptureSound : Prop :=
  ∀ s t : State, CaptureSound s → step s = .next t → CaptureSound t

/-- The count stays in 0..END and the phase in 0..7 (R1, R2), the notice queue within 32 records and the threshold in 1..32
(R166, R170, R171), the store in its canonical form, every pending return with a tick remaining (R72), and the main domain at its
reset values while it is down (R38, R79, R93, R113, R132, R148, R163, R179, R193). -/
def Obligations.EveryStepKeepsRegistersSound : Prop :=
  (∀ s t : State, TimeSound s → step s = .next t → TimeSound t) ∧
  (∀ s t : State, NoticesSound s → step s = .next t → NoticesSound t) ∧
  (∀ s t : State, StoreSound s → step s = .next t → StoreSound t) ∧
  (∀ s t : State, LinesSound s → step s = .next t → LinesSound t) ∧
  (∀ s t : State, PowerSound s → step s = .next t → PowerSound t)

/-- Every invariant holds of the part after a cold start. -/
def Obligations.ResetStateIsSound : Prop :=
  AgendaSound State.reset ∧ MessagesSound State.reset ∧ CaptureSound State.reset ∧ TimeSound State.reset ∧
    NoticesSound State.reset ∧ StoreSound State.reset ∧ LinesSound State.reset ∧ PowerSound State.reset
end

