-- ==== Sys2Proof/Laws/State.lean ====
section
/-! SUPPORT. One lemma per block per update: what each shared operation leaves of the state as it was. `X_frame` says which
blocks operation `X` may touch; the field lemmas below it are its projections. -/

namespace Sys2Proof.Machine

/-! ### setFault -/

theorem setFault_frame (f : FaultFlag) (s : State) : setFault f s = { s with niu := (setFault f s).niu } := rfl

@[simp] theorem setFault_power (f : FaultFlag) (s : State) : (setFault f s).power = s.power :=
  (congrArg State.power (setFault_frame f s) :)

@[simp] theorem setFault_tb (f : FaultFlag) (s : State) : (setFault f s).tb = s.tb :=
  (congrArg State.tb (setFault_frame f s) :)

@[simp] theorem setFault_biu (f : FaultFlag) (s : State) : (setFault f s).biu = s.biu :=
  (congrArg State.biu (setFault_frame f s) :)

@[simp] theorem setFault_au (f : FaultFlag) (s : State) : (setFault f s).au = s.au :=
  (congrArg State.au (setFault_frame f s) :)

@[simp] theorem setFault_du (f : FaultFlag) (s : State) : (setFault f s).du = s.du :=
  (congrArg State.du (setFault_frame f s) :)

@[simp] theorem setFault_mm (f : FaultFlag) (s : State) : (setFault f s).mm = s.mm :=
  (congrArg State.mm (setFault_frame f s) :)

@[simp] theorem setFault_ser (f : FaultFlag) (s : State) : (setFault f s).ser = s.ser :=
  (congrArg State.ser (setFault_frame f s) :)

@[simp] theorem setFault_evi (f : FaultFlag) (s : State) : (setFault f s).evi = s.evi :=
  (congrArg State.evi (setFault_frame f s) :)

@[simp] theorem setFault_cu (f : FaultFlag) (s : State) : (setFault f s).cu = s.cu :=
  (congrArg State.cu (setFault_frame f s) :)

@[simp] theorem setFault_tu (f : FaultFlag) (s : State) : (setFault f s).tu = s.tu :=
  (congrArg State.tu (setFault_frame f s) :)

@[simp] theorem setFault_hostRead (f : FaultFlag) (s : State) : (setFault f s).hostRead = s.hostRead :=
  (congrArg State.hostRead (setFault_frame f s) :)

@[simp] theorem setFault_gapDraws (f : FaultFlag) (s : State) : (setFault f s).gapDraws = s.gapDraws :=
  (congrArg State.gapDraws (setFault_frame f s) :)

@[simp] theorem setFault_idleTicks (f : FaultFlag) (s : State) : (setFault f s).idleTicks = s.idleTicks :=
  (congrArg State.idleTicks (setFault_frame f s) :)

@[simp] theorem setFault_pending (f : FaultFlag) (s : State) : (setFault f s).pending = s.pending :=
  (congrArg State.pending (setFault_frame f s) :)

/-! ### State.withTx -/

theorem withTx_frame (s : State) (ch : Channel) (t : Transmitter) : s.withTx ch t = { s with ser := (s.withTx ch t).ser } := rfl

@[simp] theorem withTx_power (s : State) (ch : Channel) (t : Transmitter) : (s.withTx ch t).power = s.power :=
  (congrArg State.power (withTx_frame s ch t) :)

@[simp] theorem withTx_tb (s : State) (ch : Channel) (t : Transmitter) : (s.withTx ch t).tb = s.tb :=
  (congrArg State.tb (withTx_frame s ch t) :)

@[simp] theorem withTx_biu (s : State) (ch : Channel) (t : Transmitter) : (s.withTx ch t).biu = s.biu :=
  (congrArg State.biu (withTx_frame s ch t) :)

@[simp] theorem withTx_au (s : State) (ch : Channel) (t : Transmitter) : (s.withTx ch t).au = s.au :=
  (congrArg State.au (withTx_frame s ch t) :)

@[simp] theorem withTx_du (s : State) (ch : Channel) (t : Transmitter) : (s.withTx ch t).du = s.du :=
  (congrArg State.du (withTx_frame s ch t) :)

@[simp] theorem withTx_mm (s : State) (ch : Channel) (t : Transmitter) : (s.withTx ch t).mm = s.mm :=
  (congrArg State.mm (withTx_frame s ch t) :)

@[simp] theorem withTx_evi (s : State) (ch : Channel) (t : Transmitter) : (s.withTx ch t).evi = s.evi :=
  (congrArg State.evi (withTx_frame s ch t) :)

@[simp] theorem withTx_cu (s : State) (ch : Channel) (t : Transmitter) : (s.withTx ch t).cu = s.cu :=
  (congrArg State.cu (withTx_frame s ch t) :)

@[simp] theorem withTx_tu (s : State) (ch : Channel) (t : Transmitter) : (s.withTx ch t).tu = s.tu :=
  (congrArg State.tu (withTx_frame s ch t) :)

@[simp] theorem withTx_niu (s : State) (ch : Channel) (t : Transmitter) : (s.withTx ch t).niu = s.niu :=
  (congrArg State.niu (withTx_frame s ch t) :)

@[simp] theorem withTx_hostRead (s : State) (ch : Channel) (t : Transmitter) : (s.withTx ch t).hostRead = s.hostRead :=
  (congrArg State.hostRead (withTx_frame s ch t) :)

@[simp] theorem withTx_gapDraws (s : State) (ch : Channel) (t : Transmitter) : (s.withTx ch t).gapDraws = s.gapDraws :=
  (congrArg State.gapDraws (withTx_frame s ch t) :)

@[simp] theorem withTx_idleTicks (s : State) (ch : Channel) (t : Transmitter) : (s.withTx ch t).idleTicks = s.idleTicks :=
  (congrArg State.idleTicks (withTx_frame s ch t) :)

@[simp] theorem withTx_pending (s : State) (ch : Channel) (t : Transmitter) : (s.withTx ch t).pending = s.pending :=
  (congrArg State.pending (withTx_frame s ch t) :)

/-! ### State.withRx -/

theorem withRx_frame (s : State) (ch : Channel) (r : Receiver) : s.withRx ch r = { s with ser := (s.withRx ch r).ser } := rfl

@[simp] theorem withRx_power (s : State) (ch : Channel) (r : Receiver) : (s.withRx ch r).power = s.power :=
  (congrArg State.power (withRx_frame s ch r) :)

@[simp] theorem withRx_tb (s : State) (ch : Channel) (r : Receiver) : (s.withRx ch r).tb = s.tb :=
  (congrArg State.tb (withRx_frame s ch r) :)

@[simp] theorem withRx_biu (s : State) (ch : Channel) (r : Receiver) : (s.withRx ch r).biu = s.biu :=
  (congrArg State.biu (withRx_frame s ch r) :)

@[simp] theorem withRx_au (s : State) (ch : Channel) (r : Receiver) : (s.withRx ch r).au = s.au :=
  (congrArg State.au (withRx_frame s ch r) :)

@[simp] theorem withRx_du (s : State) (ch : Channel) (r : Receiver) : (s.withRx ch r).du = s.du :=
  (congrArg State.du (withRx_frame s ch r) :)

@[simp] theorem withRx_mm (s : State) (ch : Channel) (r : Receiver) : (s.withRx ch r).mm = s.mm :=
  (congrArg State.mm (withRx_frame s ch r) :)

@[simp] theorem withRx_evi (s : State) (ch : Channel) (r : Receiver) : (s.withRx ch r).evi = s.evi :=
  (congrArg State.evi (withRx_frame s ch r) :)

@[simp] theorem withRx_cu (s : State) (ch : Channel) (r : Receiver) : (s.withRx ch r).cu = s.cu :=
  (congrArg State.cu (withRx_frame s ch r) :)

@[simp] theorem withRx_tu (s : State) (ch : Channel) (r : Receiver) : (s.withRx ch r).tu = s.tu :=
  (congrArg State.tu (withRx_frame s ch r) :)

@[simp] theorem withRx_niu (s : State) (ch : Channel) (r : Receiver) : (s.withRx ch r).niu = s.niu :=
  (congrArg State.niu (withRx_frame s ch r) :)

@[simp] theorem withRx_hostRead (s : State) (ch : Channel) (r : Receiver) : (s.withRx ch r).hostRead = s.hostRead :=
  (congrArg State.hostRead (withRx_frame s ch r) :)

@[simp] theorem withRx_gapDraws (s : State) (ch : Channel) (r : Receiver) : (s.withRx ch r).gapDraws = s.gapDraws :=
  (congrArg State.gapDraws (withRx_frame s ch r) :)

@[simp] theorem withRx_idleTicks (s : State) (ch : Channel) (r : Receiver) : (s.withRx ch r).idleTicks = s.idleTicks :=
  (congrArg State.idleTicks (withRx_frame s ch r) :)

@[simp] theorem withRx_pending (s : State) (ch : Channel) (r : Receiver) : (s.withRx ch r).pending = s.pending :=
  (congrArg State.pending (withRx_frame s ch r) :)

/-! ### complete -/

theorem complete_frame (s : State) (r : ResultCode) : complete (s, r) = { s with biu := (complete (s, r)).biu } := rfl

@[simp] theorem complete_power (s : State) (r : ResultCode) : (complete (s, r)).power = s.power :=
  (congrArg State.power (complete_frame s r) :)

@[simp] theorem complete_tb (s : State) (r : ResultCode) : (complete (s, r)).tb = s.tb :=
  (congrArg State.tb (complete_frame s r) :)

@[simp] theorem complete_au (s : State) (r : ResultCode) : (complete (s, r)).au = s.au :=
  (congrArg State.au (complete_frame s r) :)

@[simp] theorem complete_du (s : State) (r : ResultCode) : (complete (s, r)).du = s.du :=
  (congrArg State.du (complete_frame s r) :)

@[simp] theorem complete_mm (s : State) (r : ResultCode) : (complete (s, r)).mm = s.mm :=
  (congrArg State.mm (complete_frame s r) :)

@[simp] theorem complete_ser (s : State) (r : ResultCode) : (complete (s, r)).ser = s.ser :=
  (congrArg State.ser (complete_frame s r) :)

@[simp] theorem complete_evi (s : State) (r : ResultCode) : (complete (s, r)).evi = s.evi :=
  (congrArg State.evi (complete_frame s r) :)

@[simp] theorem complete_cu (s : State) (r : ResultCode) : (complete (s, r)).cu = s.cu :=
  (congrArg State.cu (complete_frame s r) :)

@[simp] theorem complete_tu (s : State) (r : ResultCode) : (complete (s, r)).tu = s.tu :=
  (congrArg State.tu (complete_frame s r) :)

@[simp] theorem complete_niu (s : State) (r : ResultCode) : (complete (s, r)).niu = s.niu :=
  (congrArg State.niu (complete_frame s r) :)

@[simp] theorem complete_hostRead (s : State) (r : ResultCode) : (complete (s, r)).hostRead = s.hostRead :=
  (congrArg State.hostRead (complete_frame s r) :)

@[simp] theorem complete_gapDraws (s : State) (r : ResultCode) : (complete (s, r)).gapDraws = s.gapDraws :=
  (congrArg State.gapDraws (complete_frame s r) :)

@[simp] theorem complete_idleTicks (s : State) (r : ResultCode) : (complete (s, r)).idleTicks = s.idleTicks :=
  (congrArg State.idleTicks (complete_frame s r) :)

@[simp] theorem complete_pending (s : State) (r : ResultCode) : (complete (s, r)).pending = s.pending :=
  (congrArg State.pending (complete_frame s r) :)

/-! ### State.withFront -/

theorem withFront_frame (s : State) (c : Instr) : s.withFront c = { s with pending := (s.withFront c).pending } := rfl

@[simp] theorem withFront_power (s : State) (c : Instr) : (s.withFront c).power = s.power :=
  (congrArg State.power (withFront_frame s c) :)

@[simp] theorem withFront_tb (s : State) (c : Instr) : (s.withFront c).tb = s.tb :=
  (congrArg State.tb (withFront_frame s c) :)

@[simp] theorem withFront_biu (s : State) (c : Instr) : (s.withFront c).biu = s.biu :=
  (congrArg State.biu (withFront_frame s c) :)

@[simp] theorem withFront_au (s : State) (c : Instr) : (s.withFront c).au = s.au :=
  (congrArg State.au (withFront_frame s c) :)

@[simp] theorem withFront_du (s : State) (c : Instr) : (s.withFront c).du = s.du :=
  (congrArg State.du (withFront_frame s c) :)

@[simp] theorem withFront_mm (s : State) (c : Instr) : (s.withFront c).mm = s.mm :=
  (congrArg State.mm (withFront_frame s c) :)

@[simp] theorem withFront_ser (s : State) (c : Instr) : (s.withFront c).ser = s.ser :=
  (congrArg State.ser (withFront_frame s c) :)

@[simp] theorem withFront_evi (s : State) (c : Instr) : (s.withFront c).evi = s.evi :=
  (congrArg State.evi (withFront_frame s c) :)

@[simp] theorem withFront_cu (s : State) (c : Instr) : (s.withFront c).cu = s.cu :=
  (congrArg State.cu (withFront_frame s c) :)

@[simp] theorem withFront_tu (s : State) (c : Instr) : (s.withFront c).tu = s.tu :=
  (congrArg State.tu (withFront_frame s c) :)

@[simp] theorem withFront_niu (s : State) (c : Instr) : (s.withFront c).niu = s.niu :=
  (congrArg State.niu (withFront_frame s c) :)

@[simp] theorem withFront_hostRead (s : State) (c : Instr) : (s.withFront c).hostRead = s.hostRead :=
  (congrArg State.hostRead (withFront_frame s c) :)

@[simp] theorem withFront_gapDraws (s : State) (c : Instr) : (s.withFront c).gapDraws = s.gapDraws :=
  (congrArg State.gapDraws (withFront_frame s c) :)

@[simp] theorem withFront_idleTicks (s : State) (c : Instr) : (s.withFront c).idleTicks = s.idleTicks :=
  (congrArg State.idleTicks (withFront_frame s c) :)

/-! ### post -/

theorem post_frame (body : NoticeBody) (s : State) : post body s = { s with niu := (post body s).niu } := by
  unfold post; split <;> rfl

@[simp] theorem post_power (body : NoticeBody) (s : State) : (post body s).power = s.power :=
  (congrArg State.power (post_frame body s) :)

@[simp] theorem post_tb (body : NoticeBody) (s : State) : (post body s).tb = s.tb :=
  (congrArg State.tb (post_frame body s) :)

@[simp] theorem post_biu (body : NoticeBody) (s : State) : (post body s).biu = s.biu :=
  (congrArg State.biu (post_frame body s) :)

@[simp] theorem post_au (body : NoticeBody) (s : State) : (post body s).au = s.au :=
  (congrArg State.au (post_frame body s) :)

@[simp] theorem post_du (body : NoticeBody) (s : State) : (post body s).du = s.du :=
  (congrArg State.du (post_frame body s) :)

@[simp] theorem post_mm (body : NoticeBody) (s : State) : (post body s).mm = s.mm :=
  (congrArg State.mm (post_frame body s) :)

@[simp] theorem post_ser (body : NoticeBody) (s : State) : (post body s).ser = s.ser :=
  (congrArg State.ser (post_frame body s) :)

@[simp] theorem post_evi (body : NoticeBody) (s : State) : (post body s).evi = s.evi :=
  (congrArg State.evi (post_frame body s) :)

@[simp] theorem post_cu (body : NoticeBody) (s : State) : (post body s).cu = s.cu :=
  (congrArg State.cu (post_frame body s) :)

@[simp] theorem post_tu (body : NoticeBody) (s : State) : (post body s).tu = s.tu :=
  (congrArg State.tu (post_frame body s) :)

@[simp] theorem post_hostRead (body : NoticeBody) (s : State) : (post body s).hostRead = s.hostRead :=
  (congrArg State.hostRead (post_frame body s) :)

@[simp] theorem post_gapDraws (body : NoticeBody) (s : State) : (post body s).gapDraws = s.gapDraws :=
  (congrArg State.gapDraws (post_frame body s) :)

@[simp] theorem post_idleTicks (body : NoticeBody) (s : State) : (post body s).idleTicks = s.idleTicks :=
  (congrArg State.idleTicks (post_frame body s) :)

@[simp] theorem post_pending (body : NoticeBody) (s : State) : (post body s).pending = s.pending :=
  (congrArg State.pending (post_frame body s) :)

/-! ### postIf -/

theorem postIf_frame (wanted : Bool) (body : NoticeBody) (s : State) : postIf wanted body s = { s with niu := (postIf wanted body s).niu } := by
  unfold postIf; split
  · exact post_frame body s
  · rfl

@[simp] theorem postIf_power (wanted : Bool) (body : NoticeBody) (s : State) : (postIf wanted body s).power = s.power :=
  (congrArg State.power (postIf_frame wanted body s) :)

@[simp] theorem postIf_tb (wanted : Bool) (body : NoticeBody) (s : State) : (postIf wanted body s).tb = s.tb :=
  (congrArg State.tb (postIf_frame wanted body s) :)

@[simp] theorem postIf_biu (wanted : Bool) (body : NoticeBody) (s : State) : (postIf wanted body s).biu = s.biu :=
  (congrArg State.biu (postIf_frame wanted body s) :)

@[simp] theorem postIf_au (wanted : Bool) (body : NoticeBody) (s : State) : (postIf wanted body s).au = s.au :=
  (congrArg State.au (postIf_frame wanted body s) :)

@[simp] theorem postIf_du (wanted : Bool) (body : NoticeBody) (s : State) : (postIf wanted body s).du = s.du :=
  (congrArg State.du (postIf_frame wanted body s) :)

@[simp] theorem postIf_mm (wanted : Bool) (body : NoticeBody) (s : State) : (postIf wanted body s).mm = s.mm :=
  (congrArg State.mm (postIf_frame wanted body s) :)

@[simp] theorem postIf_ser (wanted : Bool) (body : NoticeBody) (s : State) : (postIf wanted body s).ser = s.ser :=
  (congrArg State.ser (postIf_frame wanted body s) :)

@[simp] theorem postIf_evi (wanted : Bool) (body : NoticeBody) (s : State) : (postIf wanted body s).evi = s.evi :=
  (congrArg State.evi (postIf_frame wanted body s) :)

@[simp] theorem postIf_cu (wanted : Bool) (body : NoticeBody) (s : State) : (postIf wanted body s).cu = s.cu :=
  (congrArg State.cu (postIf_frame wanted body s) :)

@[simp] theorem postIf_tu (wanted : Bool) (body : NoticeBody) (s : State) : (postIf wanted body s).tu = s.tu :=
  (congrArg State.tu (postIf_frame wanted body s) :)

@[simp] theorem postIf_hostRead (wanted : Bool) (body : NoticeBody) (s : State) : (postIf wanted body s).hostRead = s.hostRead :=
  (congrArg State.hostRead (postIf_frame wanted body s) :)

@[simp] theorem postIf_gapDraws (wanted : Bool) (body : NoticeBody) (s : State) : (postIf wanted body s).gapDraws = s.gapDraws :=
  (congrArg State.gapDraws (postIf_frame wanted body s) :)

@[simp] theorem postIf_idleTicks (wanted : Bool) (body : NoticeBody) (s : State) : (postIf wanted body s).idleTicks = s.idleTicks :=
  (congrArg State.idleTicks (postIf_frame wanted body s) :)

@[simp] theorem postIf_pending (wanted : Bool) (body : NoticeBody) (s : State) : (postIf wanted body s).pending = s.pending :=
  (congrArg State.pending (postIf_frame wanted body s) :)

/-! ### requestLeaves -/

theorem requestLeaves_frame (r : Request) (body : Fin 32 → Source → NoticeBody) (s : State) : requestLeaves r body s = { s with mm := (requestLeaves r body s).mm, niu := (requestLeaves r body s).niu } := by
  unfold requestLeaves; split
  · rw [postIf_frame]
  · rfl

@[simp] theorem requestLeaves_power (r : Request) (body : Fin 32 → Source → NoticeBody) (s : State) : (requestLeaves r body s).power = s.power :=
  (congrArg State.power (requestLeaves_frame r body s) :)

@[simp] theorem requestLeaves_tb (r : Request) (body : Fin 32 → Source → NoticeBody) (s : State) : (requestLeaves r body s).tb = s.tb :=
  (congrArg State.tb (requestLeaves_frame r body s) :)

@[simp] theorem requestLeaves_biu (r : Request) (body : Fin 32 → Source → NoticeBody) (s : State) : (requestLeaves r body s).biu = s.biu :=
  (congrArg State.biu (requestLeaves_frame r body s) :)

@[simp] theorem requestLeaves_au (r : Request) (body : Fin 32 → Source → NoticeBody) (s : State) : (requestLeaves r body s).au = s.au :=
  (congrArg State.au (requestLeaves_frame r body s) :)

@[simp] theorem requestLeaves_du (r : Request) (body : Fin 32 → Source → NoticeBody) (s : State) : (requestLeaves r body s).du = s.du :=
  (congrArg State.du (requestLeaves_frame r body s) :)

@[simp] theorem requestLeaves_ser (r : Request) (body : Fin 32 → Source → NoticeBody) (s : State) : (requestLeaves r body s).ser = s.ser :=
  (congrArg State.ser (requestLeaves_frame r body s) :)

@[simp] theorem requestLeaves_evi (r : Request) (body : Fin 32 → Source → NoticeBody) (s : State) : (requestLeaves r body s).evi = s.evi :=
  (congrArg State.evi (requestLeaves_frame r body s) :)

@[simp] theorem requestLeaves_cu (r : Request) (body : Fin 32 → Source → NoticeBody) (s : State) : (requestLeaves r body s).cu = s.cu :=
  (congrArg State.cu (requestLeaves_frame r body s) :)

@[simp] theorem requestLeaves_tu (r : Request) (body : Fin 32 → Source → NoticeBody) (s : State) : (requestLeaves r body s).tu = s.tu :=
  (congrArg State.tu (requestLeaves_frame r body s) :)

@[simp] theorem requestLeaves_hostRead (r : Request) (body : Fin 32 → Source → NoticeBody) (s : State) : (requestLeaves r body s).hostRead = s.hostRead :=
  (congrArg State.hostRead (requestLeaves_frame r body s) :)

@[simp] theorem requestLeaves_gapDraws (r : Request) (body : Fin 32 → Source → NoticeBody) (s : State) : (requestLeaves r body s).gapDraws = s.gapDraws :=
  (congrArg State.gapDraws (requestLeaves_frame r body s) :)

@[simp] theorem requestLeaves_idleTicks (r : Request) (body : Fin 32 → Source → NoticeBody) (s : State) : (requestLeaves r body s).idleTicks = s.idleTicks :=
  (congrArg State.idleTicks (requestLeaves_frame r body s) :)

@[simp] theorem requestLeaves_pending (r : Request) (body : Fin 32 → Source → NoticeBody) (s : State) : (requestLeaves r body s).pending = s.pending :=
  (congrArg State.pending (requestLeaves_frame r body s) :)

/-! ### putOnLine -/

theorem putOnLine_frame (ch : Channel) (t : Transmitter) (s : State) : putOnLine ch t s = { s with ser := (putOnLine ch t s).ser } := by
  unfold putOnLine; split <;> rfl

@[simp] theorem putOnLine_power (ch : Channel) (t : Transmitter) (s : State) : (putOnLine ch t s).power = s.power :=
  (congrArg State.power (putOnLine_frame ch t s) :)

@[simp] theorem putOnLine_tb (ch : Channel) (t : Transmitter) (s : State) : (putOnLine ch t s).tb = s.tb :=
  (congrArg State.tb (putOnLine_frame ch t s) :)

@[simp] theorem putOnLine_biu (ch : Channel) (t : Transmitter) (s : State) : (putOnLine ch t s).biu = s.biu :=
  (congrArg State.biu (putOnLine_frame ch t s) :)

@[simp] theorem putOnLine_au (ch : Channel) (t : Transmitter) (s : State) : (putOnLine ch t s).au = s.au :=
  (congrArg State.au (putOnLine_frame ch t s) :)

@[simp] theorem putOnLine_du (ch : Channel) (t : Transmitter) (s : State) : (putOnLine ch t s).du = s.du :=
  (congrArg State.du (putOnLine_frame ch t s) :)

@[simp] theorem putOnLine_mm (ch : Channel) (t : Transmitter) (s : State) : (putOnLine ch t s).mm = s.mm :=
  (congrArg State.mm (putOnLine_frame ch t s) :)

@[simp] theorem putOnLine_evi (ch : Channel) (t : Transmitter) (s : State) : (putOnLine ch t s).evi = s.evi :=
  (congrArg State.evi (putOnLine_frame ch t s) :)

@[simp] theorem putOnLine_cu (ch : Channel) (t : Transmitter) (s : State) : (putOnLine ch t s).cu = s.cu :=
  (congrArg State.cu (putOnLine_frame ch t s) :)

@[simp] theorem putOnLine_tu (ch : Channel) (t : Transmitter) (s : State) : (putOnLine ch t s).tu = s.tu :=
  (congrArg State.tu (putOnLine_frame ch t s) :)

@[simp] theorem putOnLine_niu (ch : Channel) (t : Transmitter) (s : State) : (putOnLine ch t s).niu = s.niu :=
  (congrArg State.niu (putOnLine_frame ch t s) :)

@[simp] theorem putOnLine_hostRead (ch : Channel) (t : Transmitter) (s : State) : (putOnLine ch t s).hostRead = s.hostRead :=
  (congrArg State.hostRead (putOnLine_frame ch t s) :)

@[simp] theorem putOnLine_gapDraws (ch : Channel) (t : Transmitter) (s : State) : (putOnLine ch t s).gapDraws = s.gapDraws :=
  (congrArg State.gapDraws (putOnLine_frame ch t s) :)

@[simp] theorem putOnLine_idleTicks (ch : Channel) (t : Transmitter) (s : State) : (putOnLine ch t s).idleTicks = s.idleTicks :=
  (congrArg State.idleTicks (putOnLine_frame ch t s) :)

@[simp] theorem putOnLine_pending (ch : Channel) (t : Transmitter) (s : State) : (putOnLine ch t s).pending = s.pending :=
  (congrArg State.pending (putOnLine_frame ch t s) :)

/-! ### joinQueue -/

theorem joinQueue_frame (ch : Channel) (r : Request) (s : State) : joinQueue ch r s = { s with ser := (joinQueue ch r s).ser } := by
  unfold joinQueue; simp only; split
  · rw [putOnLine_frame]
  · rfl

@[simp] theorem joinQueue_power (ch : Channel) (r : Request) (s : State) : (joinQueue ch r s).power = s.power :=
  (congrArg State.power (joinQueue_frame ch r s) :)

@[simp] theorem joinQueue_tb (ch : Channel) (r : Request) (s : State) : (joinQueue ch r s).tb = s.tb :=
  (congrArg State.tb (joinQueue_frame ch r s) :)

@[simp] theorem joinQueue_biu (ch : Channel) (r : Request) (s : State) : (joinQueue ch r s).biu = s.biu :=
  (congrArg State.biu (joinQueue_frame ch r s) :)

@[simp] theorem joinQueue_au (ch : Channel) (r : Request) (s : State) : (joinQueue ch r s).au = s.au :=
  (congrArg State.au (joinQueue_frame ch r s) :)

@[simp] theorem joinQueue_du (ch : Channel) (r : Request) (s : State) : (joinQueue ch r s).du = s.du :=
  (congrArg State.du (joinQueue_frame ch r s) :)

@[simp] theorem joinQueue_mm (ch : Channel) (r : Request) (s : State) : (joinQueue ch r s).mm = s.mm :=
  (congrArg State.mm (joinQueue_frame ch r s) :)

@[simp] theorem joinQueue_evi (ch : Channel) (r : Request) (s : State) : (joinQueue ch r s).evi = s.evi :=
  (congrArg State.evi (joinQueue_frame ch r s) :)

@[simp] theorem joinQueue_cu (ch : Channel) (r : Request) (s : State) : (joinQueue ch r s).cu = s.cu :=
  (congrArg State.cu (joinQueue_frame ch r s) :)

@[simp] theorem joinQueue_tu (ch : Channel) (r : Request) (s : State) : (joinQueue ch r s).tu = s.tu :=
  (congrArg State.tu (joinQueue_frame ch r s) :)

@[simp] theorem joinQueue_niu (ch : Channel) (r : Request) (s : State) : (joinQueue ch r s).niu = s.niu :=
  (congrArg State.niu (joinQueue_frame ch r s) :)

@[simp] theorem joinQueue_hostRead (ch : Channel) (r : Request) (s : State) : (joinQueue ch r s).hostRead = s.hostRead :=
  (congrArg State.hostRead (joinQueue_frame ch r s) :)

@[simp] theorem joinQueue_gapDraws (ch : Channel) (r : Request) (s : State) : (joinQueue ch r s).gapDraws = s.gapDraws :=
  (congrArg State.gapDraws (joinQueue_frame ch r s) :)

@[simp] theorem joinQueue_idleTicks (ch : Channel) (r : Request) (s : State) : (joinQueue ch r s).idleTicks = s.idleTicks :=
  (congrArg State.idleTicks (joinQueue_frame ch r s) :)

@[simp] theorem joinQueue_pending (ch : Channel) (r : Request) (s : State) : (joinQueue ch r s).pending = s.pending :=
  (congrArg State.pending (joinQueue_frame ch r s) :)

/-! ### joinSend -/

theorem joinSend_frame (ch : Channel) (m : Fin 32) (source : Source) (notify : Bool) (s : State) : joinSend ch m source notify s = { s with ser := (joinSend ch m source notify s).ser, mm := (joinSend ch m source notify s).mm } := by
  unfold joinSend; rw [joinQueue_frame]

@[simp] theorem joinSend_power (ch : Channel) (m : Fin 32) (source : Source) (notify : Bool) (s : State) : (joinSend ch m source notify s).power = s.power :=
  (congrArg State.power (joinSend_frame ch m source notify s) :)

@[simp] theorem joinSend_tb (ch : Channel) (m : Fin 32) (source : Source) (notify : Bool) (s : State) : (joinSend ch m source notify s).tb = s.tb :=
  (congrArg State.tb (joinSend_frame ch m source notify s) :)

@[simp] theorem joinSend_biu (ch : Channel) (m : Fin 32) (source : Source) (notify : Bool) (s : State) : (joinSend ch m source notify s).biu = s.biu :=
  (congrArg State.biu (joinSend_frame ch m source notify s) :)

@[simp] theorem joinSend_au (ch : Channel) (m : Fin 32) (source : Source) (notify : Bool) (s : State) : (joinSend ch m source notify s).au = s.au :=
  (congrArg State.au (joinSend_frame ch m source notify s) :)

@[simp] theorem joinSend_du (ch : Channel) (m : Fin 32) (source : Source) (notify : Bool) (s : State) : (joinSend ch m source notify s).du = s.du :=
  (congrArg State.du (joinSend_frame ch m source notify s) :)

@[simp] theorem joinSend_evi (ch : Channel) (m : Fin 32) (source : Source) (notify : Bool) (s : State) : (joinSend ch m source notify s).evi = s.evi :=
  (congrArg State.evi (joinSend_frame ch m source notify s) :)

@[simp] theorem joinSend_cu (ch : Channel) (m : Fin 32) (source : Source) (notify : Bool) (s : State) : (joinSend ch m source notify s).cu = s.cu :=
  (congrArg State.cu (joinSend_frame ch m source notify s) :)

@[simp] theorem joinSend_tu (ch : Channel) (m : Fin 32) (source : Source) (notify : Bool) (s : State) : (joinSend ch m source notify s).tu = s.tu :=
  (congrArg State.tu (joinSend_frame ch m source notify s) :)

@[simp] theorem joinSend_niu (ch : Channel) (m : Fin 32) (source : Source) (notify : Bool) (s : State) : (joinSend ch m source notify s).niu = s.niu :=
  (congrArg State.niu (joinSend_frame ch m source notify s) :)

@[simp] theorem joinSend_hostRead (ch : Channel) (m : Fin 32) (source : Source) (notify : Bool) (s : State) : (joinSend ch m source notify s).hostRead = s.hostRead :=
  (congrArg State.hostRead (joinSend_frame ch m source notify s) :)

@[simp] theorem joinSend_gapDraws (ch : Channel) (m : Fin 32) (source : Source) (notify : Bool) (s : State) : (joinSend ch m source notify s).gapDraws = s.gapDraws :=
  (congrArg State.gapDraws (joinSend_frame ch m source notify s) :)

@[simp] theorem joinSend_idleTicks (ch : Channel) (m : Fin 32) (source : Source) (notify : Bool) (s : State) : (joinSend ch m source notify s).idleTicks = s.idleTicks :=
  (congrArg State.idleTicks (joinSend_frame ch m source notify s) :)

@[simp] theorem joinSend_pending (ch : Channel) (m : Fin 32) (source : Source) (notify : Bool) (s : State) : (joinSend ch m source notify s).pending = s.pending :=
  (congrArg State.pending (joinSend_frame ch m source notify s) :)

/-! ### joinBreak -/

theorem joinBreak_frame (ch : Channel) (length : Nat) (s : State) : joinBreak ch length s = { s with ser := (joinBreak ch length s).ser } := joinQueue_frame ch _ s

@[simp] theorem joinBreak_power (ch : Channel) (length : Nat) (s : State) : (joinBreak ch length s).power = s.power :=
  (congrArg State.power (joinBreak_frame ch length s) :)

@[simp] theorem joinBreak_tb (ch : Channel) (length : Nat) (s : State) : (joinBreak ch length s).tb = s.tb :=
  (congrArg State.tb (joinBreak_frame ch length s) :)

@[simp] theorem joinBreak_biu (ch : Channel) (length : Nat) (s : State) : (joinBreak ch length s).biu = s.biu :=
  (congrArg State.biu (joinBreak_frame ch length s) :)

@[simp] theorem joinBreak_au (ch : Channel) (length : Nat) (s : State) : (joinBreak ch length s).au = s.au :=
  (congrArg State.au (joinBreak_frame ch length s) :)

@[simp] theorem joinBreak_du (ch : Channel) (length : Nat) (s : State) : (joinBreak ch length s).du = s.du :=
  (congrArg State.du (joinBreak_frame ch length s) :)

@[simp] theorem joinBreak_mm (ch : Channel) (length : Nat) (s : State) : (joinBreak ch length s).mm = s.mm :=
  (congrArg State.mm (joinBreak_frame ch length s) :)

@[simp] theorem joinBreak_evi (ch : Channel) (length : Nat) (s : State) : (joinBreak ch length s).evi = s.evi :=
  (congrArg State.evi (joinBreak_frame ch length s) :)

@[simp] theorem joinBreak_cu (ch : Channel) (length : Nat) (s : State) : (joinBreak ch length s).cu = s.cu :=
  (congrArg State.cu (joinBreak_frame ch length s) :)

@[simp] theorem joinBreak_tu (ch : Channel) (length : Nat) (s : State) : (joinBreak ch length s).tu = s.tu :=
  (congrArg State.tu (joinBreak_frame ch length s) :)

@[simp] theorem joinBreak_niu (ch : Channel) (length : Nat) (s : State) : (joinBreak ch length s).niu = s.niu :=
  (congrArg State.niu (joinBreak_frame ch length s) :)

@[simp] theorem joinBreak_hostRead (ch : Channel) (length : Nat) (s : State) : (joinBreak ch length s).hostRead = s.hostRead :=
  (congrArg State.hostRead (joinBreak_frame ch length s) :)

@[simp] theorem joinBreak_gapDraws (ch : Channel) (length : Nat) (s : State) : (joinBreak ch length s).gapDraws = s.gapDraws :=
  (congrArg State.gapDraws (joinBreak_frame ch length s) :)

@[simp] theorem joinBreak_idleTicks (ch : Channel) (length : Nat) (s : State) : (joinBreak ch length s).idleTicks = s.idleTicks :=
  (congrArg State.idleTicks (joinBreak_frame ch length s) :)

@[simp] theorem joinBreak_pending (ch : Channel) (length : Nat) (s : State) : (joinBreak ch length s).pending = s.pending :=
  (congrArg State.pending (joinBreak_frame ch length s) :)

/-! ### headLeaves -/

theorem headLeaves_frame (ch : Channel) (body : Fin 32 → Source → NoticeBody) (s : State) : headLeaves ch body s = { s with ser := (headLeaves ch body s).ser, mm := (headLeaves ch body s).mm, niu := (headLeaves ch body s).niu } := by
  unfold headLeaves; split
  · rfl
  · simp only; rw [putOnLine_frame, requestLeaves_frame]; rfl

@[simp] theorem headLeaves_power (ch : Channel) (body : Fin 32 → Source → NoticeBody) (s : State) : (headLeaves ch body s).power = s.power :=
  (congrArg State.power (headLeaves_frame ch body s) :)

@[simp] theorem headLeaves_tb (ch : Channel) (body : Fin 32 → Source → NoticeBody) (s : State) : (headLeaves ch body s).tb = s.tb :=
  (congrArg State.tb (headLeaves_frame ch body s) :)

@[simp] theorem headLeaves_biu (ch : Channel) (body : Fin 32 → Source → NoticeBody) (s : State) : (headLeaves ch body s).biu = s.biu :=
  (congrArg State.biu (headLeaves_frame ch body s) :)

@[simp] theorem headLeaves_au (ch : Channel) (body : Fin 32 → Source → NoticeBody) (s : State) : (headLeaves ch body s).au = s.au :=
  (congrArg State.au (headLeaves_frame ch body s) :)

@[simp] theorem headLeaves_du (ch : Channel) (body : Fin 32 → Source → NoticeBody) (s : State) : (headLeaves ch body s).du = s.du :=
  (congrArg State.du (headLeaves_frame ch body s) :)

@[simp] theorem headLeaves_evi (ch : Channel) (body : Fin 32 → Source → NoticeBody) (s : State) : (headLeaves ch body s).evi = s.evi :=
  (congrArg State.evi (headLeaves_frame ch body s) :)

@[simp] theorem headLeaves_cu (ch : Channel) (body : Fin 32 → Source → NoticeBody) (s : State) : (headLeaves ch body s).cu = s.cu :=
  (congrArg State.cu (headLeaves_frame ch body s) :)

@[simp] theorem headLeaves_tu (ch : Channel) (body : Fin 32 → Source → NoticeBody) (s : State) : (headLeaves ch body s).tu = s.tu :=
  (congrArg State.tu (headLeaves_frame ch body s) :)

@[simp] theorem headLeaves_hostRead (ch : Channel) (body : Fin 32 → Source → NoticeBody) (s : State) : (headLeaves ch body s).hostRead = s.hostRead :=
  (congrArg State.hostRead (headLeaves_frame ch body s) :)

@[simp] theorem headLeaves_gapDraws (ch : Channel) (body : Fin 32 → Source → NoticeBody) (s : State) : (headLeaves ch body s).gapDraws = s.gapDraws :=
  (congrArg State.gapDraws (headLeaves_frame ch body s) :)

@[simp] theorem headLeaves_idleTicks (ch : Channel) (body : Fin 32 → Source → NoticeBody) (s : State) : (headLeaves ch body s).idleTicks = s.idleTicks :=
  (congrArg State.idleTicks (headLeaves_frame ch body s) :)

@[simp] theorem headLeaves_pending (ch : Channel) (body : Fin 32 → Source → NoticeBody) (s : State) : (headLeaves ch body s).pending = s.pending :=
  (congrArg State.pending (headLeaves_frame ch body s) :)

/-! ### bringTicks -/

theorem bringTicks_frame (s : State) : bringTicks s = { s with du := (bringTicks s).du, ser := (bringTicks s).ser } := by
  unfold bringTicks; split <;> rfl

@[simp] theorem bringTicks_power (s : State) : (bringTicks s).power = s.power :=
  (congrArg State.power (bringTicks_frame s) :)

@[simp] theorem bringTicks_tb (s : State) : (bringTicks s).tb = s.tb :=
  (congrArg State.tb (bringTicks_frame s) :)

@[simp] theorem bringTicks_biu (s : State) : (bringTicks s).biu = s.biu :=
  (congrArg State.biu (bringTicks_frame s) :)

@[simp] theorem bringTicks_au (s : State) : (bringTicks s).au = s.au :=
  (congrArg State.au (bringTicks_frame s) :)

@[simp] theorem bringTicks_mm (s : State) : (bringTicks s).mm = s.mm :=
  (congrArg State.mm (bringTicks_frame s) :)

@[simp] theorem bringTicks_evi (s : State) : (bringTicks s).evi = s.evi :=
  (congrArg State.evi (bringTicks_frame s) :)

@[simp] theorem bringTicks_cu (s : State) : (bringTicks s).cu = s.cu :=
  (congrArg State.cu (bringTicks_frame s) :)

@[simp] theorem bringTicks_tu (s : State) : (bringTicks s).tu = s.tu :=
  (congrArg State.tu (bringTicks_frame s) :)

@[simp] theorem bringTicks_niu (s : State) : (bringTicks s).niu = s.niu :=
  (congrArg State.niu (bringTicks_frame s) :)

@[simp] theorem bringTicks_hostRead (s : State) : (bringTicks s).hostRead = s.hostRead :=
  (congrArg State.hostRead (bringTicks_frame s) :)

@[simp] theorem bringTicks_gapDraws (s : State) : (bringTicks s).gapDraws = s.gapDraws :=
  (congrArg State.gapDraws (bringTicks_frame s) :)

@[simp] theorem bringTicks_idleTicks (s : State) : (bringTicks s).idleTicks = s.idleTicks :=
  (congrArg State.idleTicks (bringTicks_frame s) :)

@[simp] theorem bringTicks_pending (s : State) : (bringTicks s).pending = s.pending :=
  (congrArg State.pending (bringTicks_frame s) :)

/-! ### dropFrame -/

theorem dropFrame_frame (ch : Channel) (s : State) : dropFrame ch s = { s with cu := (dropFrame ch s).cu, niu := (dropFrame ch s).niu } := rfl

@[simp] theorem dropFrame_power (ch : Channel) (s : State) : (dropFrame ch s).power = s.power :=
  (congrArg State.power (dropFrame_frame ch s) :)

@[simp] theorem dropFrame_tb (ch : Channel) (s : State) : (dropFrame ch s).tb = s.tb :=
  (congrArg State.tb (dropFrame_frame ch s) :)

@[simp] theorem dropFrame_biu (ch : Channel) (s : State) : (dropFrame ch s).biu = s.biu :=
  (congrArg State.biu (dropFrame_frame ch s) :)

@[simp] theorem dropFrame_au (ch : Channel) (s : State) : (dropFrame ch s).au = s.au :=
  (congrArg State.au (dropFrame_frame ch s) :)

@[simp] theorem dropFrame_du (ch : Channel) (s : State) : (dropFrame ch s).du = s.du :=
  (congrArg State.du (dropFrame_frame ch s) :)

@[simp] theorem dropFrame_mm (ch : Channel) (s : State) : (dropFrame ch s).mm = s.mm :=
  (congrArg State.mm (dropFrame_frame ch s) :)

@[simp] theorem dropFrame_ser (ch : Channel) (s : State) : (dropFrame ch s).ser = s.ser :=
  (congrArg State.ser (dropFrame_frame ch s) :)

@[simp] theorem dropFrame_evi (ch : Channel) (s : State) : (dropFrame ch s).evi = s.evi :=
  (congrArg State.evi (dropFrame_frame ch s) :)

@[simp] theorem dropFrame_tu (ch : Channel) (s : State) : (dropFrame ch s).tu = s.tu :=
  (congrArg State.tu (dropFrame_frame ch s) :)

@[simp] theorem dropFrame_hostRead (ch : Channel) (s : State) : (dropFrame ch s).hostRead = s.hostRead :=
  (congrArg State.hostRead (dropFrame_frame ch s) :)

@[simp] theorem dropFrame_gapDraws (ch : Channel) (s : State) : (dropFrame ch s).gapDraws = s.gapDraws :=
  (congrArg State.gapDraws (dropFrame_frame ch s) :)

@[simp] theorem dropFrame_idleTicks (ch : Channel) (s : State) : (dropFrame ch s).idleTicks = s.idleTicks :=
  (congrArg State.idleTicks (dropFrame_frame ch s) :)

@[simp] theorem dropFrame_pending (ch : Channel) (s : State) : (dropFrame ch s).pending = s.pending :=
  (congrArg State.pending (dropFrame_frame ch s) :)

/-! ### dropEdge -/

theorem dropEdge_frame (s : State) : dropEdge s = { s with cu := (dropEdge s).cu, niu := (dropEdge s).niu } := rfl

@[simp] theorem dropEdge_power (s : State) : (dropEdge s).power = s.power :=
  (congrArg State.power (dropEdge_frame s) :)

@[simp] theorem dropEdge_tb (s : State) : (dropEdge s).tb = s.tb :=
  (congrArg State.tb (dropEdge_frame s) :)

@[simp] theorem dropEdge_biu (s : State) : (dropEdge s).biu = s.biu :=
  (congrArg State.biu (dropEdge_frame s) :)

@[simp] theorem dropEdge_au (s : State) : (dropEdge s).au = s.au :=
  (congrArg State.au (dropEdge_frame s) :)

@[simp] theorem dropEdge_du (s : State) : (dropEdge s).du = s.du :=
  (congrArg State.du (dropEdge_frame s) :)

@[simp] theorem dropEdge_mm (s : State) : (dropEdge s).mm = s.mm :=
  (congrArg State.mm (dropEdge_frame s) :)

@[simp] theorem dropEdge_ser (s : State) : (dropEdge s).ser = s.ser :=
  (congrArg State.ser (dropEdge_frame s) :)

@[simp] theorem dropEdge_evi (s : State) : (dropEdge s).evi = s.evi :=
  (congrArg State.evi (dropEdge_frame s) :)

@[simp] theorem dropEdge_tu (s : State) : (dropEdge s).tu = s.tu :=
  (congrArg State.tu (dropEdge_frame s) :)

@[simp] theorem dropEdge_hostRead (s : State) : (dropEdge s).hostRead = s.hostRead :=
  (congrArg State.hostRead (dropEdge_frame s) :)

@[simp] theorem dropEdge_gapDraws (s : State) : (dropEdge s).gapDraws = s.gapDraws :=
  (congrArg State.gapDraws (dropEdge_frame s) :)

@[simp] theorem dropEdge_idleTicks (s : State) : (dropEdge s).idleTicks = s.idleTicks :=
  (congrArg State.idleTicks (dropEdge_frame s) :)

@[simp] theorem dropEdge_pending (s : State) : (dropEdge s).pending = s.pending :=
  (congrArg State.pending (dropEdge_frame s) :)

/-! ### triggerMiss -/

theorem triggerMiss_frame (k : Fin 8) (slot : Fin 64) (reason : MissReason) (current : Bool) (s : State) : triggerMiss k slot reason current s = { s with tu := (triggerMiss k slot reason current s).tu, niu := (triggerMiss k slot reason current s).niu } := by
  unfold triggerMiss; simp only
  rw [post_frame]; cases current <;> rfl

@[simp] theorem triggerMiss_power (k : Fin 8) (slot : Fin 64) (reason : MissReason) (current : Bool) (s : State) : (triggerMiss k slot reason current s).power = s.power :=
  (congrArg State.power (triggerMiss_frame k slot reason current s) :)

@[simp] theorem triggerMiss_tb (k : Fin 8) (slot : Fin 64) (reason : MissReason) (current : Bool) (s : State) : (triggerMiss k slot reason current s).tb = s.tb :=
  (congrArg State.tb (triggerMiss_frame k slot reason current s) :)

@[simp] theorem triggerMiss_biu (k : Fin 8) (slot : Fin 64) (reason : MissReason) (current : Bool) (s : State) : (triggerMiss k slot reason current s).biu = s.biu :=
  (congrArg State.biu (triggerMiss_frame k slot reason current s) :)

@[simp] theorem triggerMiss_au (k : Fin 8) (slot : Fin 64) (reason : MissReason) (current : Bool) (s : State) : (triggerMiss k slot reason current s).au = s.au :=
  (congrArg State.au (triggerMiss_frame k slot reason current s) :)

@[simp] theorem triggerMiss_du (k : Fin 8) (slot : Fin 64) (reason : MissReason) (current : Bool) (s : State) : (triggerMiss k slot reason current s).du = s.du :=
  (congrArg State.du (triggerMiss_frame k slot reason current s) :)

@[simp] theorem triggerMiss_mm (k : Fin 8) (slot : Fin 64) (reason : MissReason) (current : Bool) (s : State) : (triggerMiss k slot reason current s).mm = s.mm :=
  (congrArg State.mm (triggerMiss_frame k slot reason current s) :)

@[simp] theorem triggerMiss_ser (k : Fin 8) (slot : Fin 64) (reason : MissReason) (current : Bool) (s : State) : (triggerMiss k slot reason current s).ser = s.ser :=
  (congrArg State.ser (triggerMiss_frame k slot reason current s) :)

@[simp] theorem triggerMiss_evi (k : Fin 8) (slot : Fin 64) (reason : MissReason) (current : Bool) (s : State) : (triggerMiss k slot reason current s).evi = s.evi :=
  (congrArg State.evi (triggerMiss_frame k slot reason current s) :)

@[simp] theorem triggerMiss_cu (k : Fin 8) (slot : Fin 64) (reason : MissReason) (current : Bool) (s : State) : (triggerMiss k slot reason current s).cu = s.cu :=
  (congrArg State.cu (triggerMiss_frame k slot reason current s) :)

@[simp] theorem triggerMiss_hostRead (k : Fin 8) (slot : Fin 64) (reason : MissReason) (current : Bool) (s : State) : (triggerMiss k slot reason current s).hostRead = s.hostRead :=
  (congrArg State.hostRead (triggerMiss_frame k slot reason current s) :)

@[simp] theorem triggerMiss_gapDraws (k : Fin 8) (slot : Fin 64) (reason : MissReason) (current : Bool) (s : State) : (triggerMiss k slot reason current s).gapDraws = s.gapDraws :=
  (congrArg State.gapDraws (triggerMiss_frame k slot reason current s) :)

@[simp] theorem triggerMiss_idleTicks (k : Fin 8) (slot : Fin 64) (reason : MissReason) (current : Bool) (s : State) : (triggerMiss k slot reason current s).idleTicks = s.idleTicks :=
  (congrArg State.idleTicks (triggerMiss_frame k slot reason current s) :)

@[simp] theorem triggerMiss_pending (k : Fin 8) (slot : Fin 64) (reason : MissReason) (current : Bool) (s : State) : (triggerMiss k slot reason current s).pending = s.pending :=
  (congrArg State.pending (triggerMiss_frame k slot reason current s) :)

/-! ### judgeRule -/

theorem judgeRule_frame (r : CaptureRecord) (s : State) (l : List ArmRequest) (k : Fin 8) : (judgeRule r (s, l) k).1 = { s with tu := ((judgeRule r (s, l) k).1).tu, niu := ((judgeRule r (s, l) k).1).niu } := by
  unfold judgeRule; simp only; split
  · exact triggerMiss_frame k _ _ _ s
  · split
    · exact triggerMiss_frame k _ _ _ s
    · rfl

@[simp] theorem judgeRule_power (r : CaptureRecord) (s : State) (l : List ArmRequest) (k : Fin 8) : ((judgeRule r (s, l) k).1).power = s.power :=
  (congrArg State.power (judgeRule_frame r s l k) :)

@[simp] theorem judgeRule_tb (r : CaptureRecord) (s : State) (l : List ArmRequest) (k : Fin 8) : ((judgeRule r (s, l) k).1).tb = s.tb :=
  (congrArg State.tb (judgeRule_frame r s l k) :)

@[simp] theorem judgeRule_biu (r : CaptureRecord) (s : State) (l : List ArmRequest) (k : Fin 8) : ((judgeRule r (s, l) k).1).biu = s.biu :=
  (congrArg State.biu (judgeRule_frame r s l k) :)

@[simp] theorem judgeRule_au (r : CaptureRecord) (s : State) (l : List ArmRequest) (k : Fin 8) : ((judgeRule r (s, l) k).1).au = s.au :=
  (congrArg State.au (judgeRule_frame r s l k) :)

@[simp] theorem judgeRule_du (r : CaptureRecord) (s : State) (l : List ArmRequest) (k : Fin 8) : ((judgeRule r (s, l) k).1).du = s.du :=
  (congrArg State.du (judgeRule_frame r s l k) :)

@[simp] theorem judgeRule_mm (r : CaptureRecord) (s : State) (l : List ArmRequest) (k : Fin 8) : ((judgeRule r (s, l) k).1).mm = s.mm :=
  (congrArg State.mm (judgeRule_frame r s l k) :)

@[simp] theorem judgeRule_ser (r : CaptureRecord) (s : State) (l : List ArmRequest) (k : Fin 8) : ((judgeRule r (s, l) k).1).ser = s.ser :=
  (congrArg State.ser (judgeRule_frame r s l k) :)

@[simp] theorem judgeRule_evi (r : CaptureRecord) (s : State) (l : List ArmRequest) (k : Fin 8) : ((judgeRule r (s, l) k).1).evi = s.evi :=
  (congrArg State.evi (judgeRule_frame r s l k) :)

@[simp] theorem judgeRule_cu (r : CaptureRecord) (s : State) (l : List ArmRequest) (k : Fin 8) : ((judgeRule r (s, l) k).1).cu = s.cu :=
  (congrArg State.cu (judgeRule_frame r s l k) :)

@[simp] theorem judgeRule_hostRead (r : CaptureRecord) (s : State) (l : List ArmRequest) (k : Fin 8) : ((judgeRule r (s, l) k).1).hostRead = s.hostRead :=
  (congrArg State.hostRead (judgeRule_frame r s l k) :)

@[simp] theorem judgeRule_gapDraws (r : CaptureRecord) (s : State) (l : List ArmRequest) (k : Fin 8) : ((judgeRule r (s, l) k).1).gapDraws = s.gapDraws :=
  (congrArg State.gapDraws (judgeRule_frame r s l k) :)

@[simp] theorem judgeRule_idleTicks (r : CaptureRecord) (s : State) (l : List ArmRequest) (k : Fin 8) : ((judgeRule r (s, l) k).1).idleTicks = s.idleTicks :=
  (congrArg State.idleTicks (judgeRule_frame r s l k) :)

@[simp] theorem judgeRule_pending (r : CaptureRecord) (s : State) (l : List ArmRequest) (k : Fin 8) : ((judgeRule r (s, l) k).1).pending = s.pending :=
  (congrArg State.pending (judgeRule_frame r s l k) :)

/-! ### judgeRules -/

theorem judgeRules_frame (r : CaptureRecord) (s : State) (l : List ArmRequest) (ks : List (Fin 8)) : (ks.foldl (judgeRule r) (s, l)).1 = { s with tu := ((ks.foldl (judgeRule r) (s, l)).1).tu, niu := ((ks.foldl (judgeRule r) (s, l)).1).niu } := by
  induction ks generalizing s l with
  | nil => rfl
  | cons k ks ih =>
    rw [List.foldl_cons]
    have h := ih (judgeRule r (s, l) k).1 (judgeRule r (s, l) k).2
    rw [h, judgeRule_frame r s l k]

@[simp] theorem judgeRules_power (r : CaptureRecord) (s : State) (l : List ArmRequest) (ks : List (Fin 8)) : ((ks.foldl (judgeRule r) (s, l)).1).power = s.power :=
  (congrArg State.power (judgeRules_frame r s l ks) :)

@[simp] theorem judgeRules_tb (r : CaptureRecord) (s : State) (l : List ArmRequest) (ks : List (Fin 8)) : ((ks.foldl (judgeRule r) (s, l)).1).tb = s.tb :=
  (congrArg State.tb (judgeRules_frame r s l ks) :)

@[simp] theorem judgeRules_biu (r : CaptureRecord) (s : State) (l : List ArmRequest) (ks : List (Fin 8)) : ((ks.foldl (judgeRule r) (s, l)).1).biu = s.biu :=
  (congrArg State.biu (judgeRules_frame r s l ks) :)

@[simp] theorem judgeRules_au (r : CaptureRecord) (s : State) (l : List ArmRequest) (ks : List (Fin 8)) : ((ks.foldl (judgeRule r) (s, l)).1).au = s.au :=
  (congrArg State.au (judgeRules_frame r s l ks) :)

@[simp] theorem judgeRules_du (r : CaptureRecord) (s : State) (l : List ArmRequest) (ks : List (Fin 8)) : ((ks.foldl (judgeRule r) (s, l)).1).du = s.du :=
  (congrArg State.du (judgeRules_frame r s l ks) :)

@[simp] theorem judgeRules_mm (r : CaptureRecord) (s : State) (l : List ArmRequest) (ks : List (Fin 8)) : ((ks.foldl (judgeRule r) (s, l)).1).mm = s.mm :=
  (congrArg State.mm (judgeRules_frame r s l ks) :)

@[simp] theorem judgeRules_ser (r : CaptureRecord) (s : State) (l : List ArmRequest) (ks : List (Fin 8)) : ((ks.foldl (judgeRule r) (s, l)).1).ser = s.ser :=
  (congrArg State.ser (judgeRules_frame r s l ks) :)

@[simp] theorem judgeRules_evi (r : CaptureRecord) (s : State) (l : List ArmRequest) (ks : List (Fin 8)) : ((ks.foldl (judgeRule r) (s, l)).1).evi = s.evi :=
  (congrArg State.evi (judgeRules_frame r s l ks) :)

@[simp] theorem judgeRules_cu (r : CaptureRecord) (s : State) (l : List ArmRequest) (ks : List (Fin 8)) : ((ks.foldl (judgeRule r) (s, l)).1).cu = s.cu :=
  (congrArg State.cu (judgeRules_frame r s l ks) :)

@[simp] theorem judgeRules_hostRead (r : CaptureRecord) (s : State) (l : List ArmRequest) (ks : List (Fin 8)) : ((ks.foldl (judgeRule r) (s, l)).1).hostRead = s.hostRead :=
  (congrArg State.hostRead (judgeRules_frame r s l ks) :)

@[simp] theorem judgeRules_gapDraws (r : CaptureRecord) (s : State) (l : List ArmRequest) (ks : List (Fin 8)) : ((ks.foldl (judgeRule r) (s, l)).1).gapDraws = s.gapDraws :=
  (congrArg State.gapDraws (judgeRules_frame r s l ks) :)

@[simp] theorem judgeRules_idleTicks (r : CaptureRecord) (s : State) (l : List ArmRequest) (ks : List (Fin 8)) : ((ks.foldl (judgeRule r) (s, l)).1).idleTicks = s.idleTicks :=
  (congrArg State.idleTicks (judgeRules_frame r s l ks) :)

@[simp] theorem judgeRules_pending (r : CaptureRecord) (s : State) (l : List ArmRequest) (ks : List (Fin 8)) : ((ks.foldl (judgeRule r) (s, l)).1).pending = s.pending :=
  (congrArg State.pending (judgeRules_frame r s l ks) :)

/-! ### closeRecord -/

theorem closeRecord_frame (r : CaptureRecord) (s : State) : closeRecord r s = { s with cu := (closeRecord r s).cu, tu := (closeRecord r s).tu, niu := (closeRecord r s).niu } := by
  unfold closeRecord; simp only; rw [judgeRules_frame]

@[simp] theorem closeRecord_power (r : CaptureRecord) (s : State) : (closeRecord r s).power = s.power :=
  (congrArg State.power (closeRecord_frame r s) :)

@[simp] theorem closeRecord_tb (r : CaptureRecord) (s : State) : (closeRecord r s).tb = s.tb :=
  (congrArg State.tb (closeRecord_frame r s) :)

@[simp] theorem closeRecord_biu (r : CaptureRecord) (s : State) : (closeRecord r s).biu = s.biu :=
  (congrArg State.biu (closeRecord_frame r s) :)

@[simp] theorem closeRecord_au (r : CaptureRecord) (s : State) : (closeRecord r s).au = s.au :=
  (congrArg State.au (closeRecord_frame r s) :)

@[simp] theorem closeRecord_du (r : CaptureRecord) (s : State) : (closeRecord r s).du = s.du :=
  (congrArg State.du (closeRecord_frame r s) :)

@[simp] theorem closeRecord_mm (r : CaptureRecord) (s : State) : (closeRecord r s).mm = s.mm :=
  (congrArg State.mm (closeRecord_frame r s) :)

@[simp] theorem closeRecord_ser (r : CaptureRecord) (s : State) : (closeRecord r s).ser = s.ser :=
  (congrArg State.ser (closeRecord_frame r s) :)

@[simp] theorem closeRecord_evi (r : CaptureRecord) (s : State) : (closeRecord r s).evi = s.evi :=
  (congrArg State.evi (closeRecord_frame r s) :)

@[simp] theorem closeRecord_hostRead (r : CaptureRecord) (s : State) : (closeRecord r s).hostRead = s.hostRead :=
  (congrArg State.hostRead (closeRecord_frame r s) :)

@[simp] theorem closeRecord_gapDraws (r : CaptureRecord) (s : State) : (closeRecord r s).gapDraws = s.gapDraws :=
  (congrArg State.gapDraws (closeRecord_frame r s) :)

@[simp] theorem closeRecord_idleTicks (r : CaptureRecord) (s : State) : (closeRecord r s).idleTicks = s.idleTicks :=
  (congrArg State.idleTicks (closeRecord_frame r s) :)

@[simp] theorem closeRecord_pending (r : CaptureRecord) (s : State) : (closeRecord r s).pending = s.pending :=
  (congrArg State.pending (closeRecord_frame r s) :)

/-! ### startFrame -/

theorem startFrame_frame (ch : Channel) (s : State) : startFrame ch s = { s with ser := (startFrame ch s).ser, cu := (startFrame ch s).cu, niu := (startFrame ch s).niu } := by
  unfold startFrame; simp only; split <;> rfl

@[simp] theorem startFrame_power (ch : Channel) (s : State) : (startFrame ch s).power = s.power :=
  (congrArg State.power (startFrame_frame ch s) :)

@[simp] theorem startFrame_tb (ch : Channel) (s : State) : (startFrame ch s).tb = s.tb :=
  (congrArg State.tb (startFrame_frame ch s) :)

@[simp] theorem startFrame_biu (ch : Channel) (s : State) : (startFrame ch s).biu = s.biu :=
  (congrArg State.biu (startFrame_frame ch s) :)

@[simp] theorem startFrame_au (ch : Channel) (s : State) : (startFrame ch s).au = s.au :=
  (congrArg State.au (startFrame_frame ch s) :)

@[simp] theorem startFrame_du (ch : Channel) (s : State) : (startFrame ch s).du = s.du :=
  (congrArg State.du (startFrame_frame ch s) :)

@[simp] theorem startFrame_mm (ch : Channel) (s : State) : (startFrame ch s).mm = s.mm :=
  (congrArg State.mm (startFrame_frame ch s) :)

@[simp] theorem startFrame_evi (ch : Channel) (s : State) : (startFrame ch s).evi = s.evi :=
  (congrArg State.evi (startFrame_frame ch s) :)

@[simp] theorem startFrame_tu (ch : Channel) (s : State) : (startFrame ch s).tu = s.tu :=
  (congrArg State.tu (startFrame_frame ch s) :)

@[simp] theorem startFrame_hostRead (ch : Channel) (s : State) : (startFrame ch s).hostRead = s.hostRead :=
  (congrArg State.hostRead (startFrame_frame ch s) :)

@[simp] theorem startFrame_gapDraws (ch : Channel) (s : State) : (startFrame ch s).gapDraws = s.gapDraws :=
  (congrArg State.gapDraws (startFrame_frame ch s) :)

@[simp] theorem startFrame_idleTicks (ch : Channel) (s : State) : (startFrame ch s).idleTicks = s.idleTicks :=
  (congrArg State.idleTicks (startFrame_frame ch s) :)

@[simp] theorem startFrame_pending (ch : Channel) (s : State) : (startFrame ch s).pending = s.pending :=
  (congrArg State.pending (startFrame_frame ch s) :)

/-! ### closeOpened -/

theorem closeOpened_frame (ch : Channel) (cause : EndCause) (flags : FrameFlags) (s : State) : closeOpened ch cause flags s = { s with cu := (closeOpened ch cause flags s).cu, tu := (closeOpened ch cause flags s).tu, niu := (closeOpened ch cause flags s).niu } := by
  unfold closeOpened; split
  · rfl
  · rw [closeRecord_frame]

@[simp] theorem closeOpened_power (ch : Channel) (cause : EndCause) (flags : FrameFlags) (s : State) : (closeOpened ch cause flags s).power = s.power :=
  (congrArg State.power (closeOpened_frame ch cause flags s) :)

@[simp] theorem closeOpened_tb (ch : Channel) (cause : EndCause) (flags : FrameFlags) (s : State) : (closeOpened ch cause flags s).tb = s.tb :=
  (congrArg State.tb (closeOpened_frame ch cause flags s) :)

@[simp] theorem closeOpened_biu (ch : Channel) (cause : EndCause) (flags : FrameFlags) (s : State) : (closeOpened ch cause flags s).biu = s.biu :=
  (congrArg State.biu (closeOpened_frame ch cause flags s) :)

@[simp] theorem closeOpened_au (ch : Channel) (cause : EndCause) (flags : FrameFlags) (s : State) : (closeOpened ch cause flags s).au = s.au :=
  (congrArg State.au (closeOpened_frame ch cause flags s) :)

@[simp] theorem closeOpened_du (ch : Channel) (cause : EndCause) (flags : FrameFlags) (s : State) : (closeOpened ch cause flags s).du = s.du :=
  (congrArg State.du (closeOpened_frame ch cause flags s) :)

@[simp] theorem closeOpened_mm (ch : Channel) (cause : EndCause) (flags : FrameFlags) (s : State) : (closeOpened ch cause flags s).mm = s.mm :=
  (congrArg State.mm (closeOpened_frame ch cause flags s) :)

@[simp] theorem closeOpened_ser (ch : Channel) (cause : EndCause) (flags : FrameFlags) (s : State) : (closeOpened ch cause flags s).ser = s.ser :=
  (congrArg State.ser (closeOpened_frame ch cause flags s) :)

@[simp] theorem closeOpened_evi (ch : Channel) (cause : EndCause) (flags : FrameFlags) (s : State) : (closeOpened ch cause flags s).evi = s.evi :=
  (congrArg State.evi (closeOpened_frame ch cause flags s) :)

@[simp] theorem closeOpened_hostRead (ch : Channel) (cause : EndCause) (flags : FrameFlags) (s : State) : (closeOpened ch cause flags s).hostRead = s.hostRead :=
  (congrArg State.hostRead (closeOpened_frame ch cause flags s) :)

@[simp] theorem closeOpened_gapDraws (ch : Channel) (cause : EndCause) (flags : FrameFlags) (s : State) : (closeOpened ch cause flags s).gapDraws = s.gapDraws :=
  (congrArg State.gapDraws (closeOpened_frame ch cause flags s) :)

@[simp] theorem closeOpened_idleTicks (ch : Channel) (cause : EndCause) (flags : FrameFlags) (s : State) : (closeOpened ch cause flags s).idleTicks = s.idleTicks :=
  (congrArg State.idleTicks (closeOpened_frame ch cause flags s) :)

@[simp] theorem closeOpened_pending (ch : Channel) (cause : EndCause) (flags : FrameFlags) (s : State) : (closeOpened ch cause flags s).pending = s.pending :=
  (congrArg State.pending (closeOpened_frame ch cause flags s) :)

/-! ### endFrame -/

theorem endFrame_frame (ch : Channel) (cause : EndCause) (s : State) : endFrame ch cause s = { s with ser := (endFrame ch cause s).ser, cu := (endFrame ch cause s).cu, tu := (endFrame ch cause s).tu, niu := (endFrame ch cause s).niu } := by
  unfold endFrame; simp only; split
  · rw [withRx_frame, closeOpened_frame]
  · rfl

@[simp] theorem endFrame_power (ch : Channel) (cause : EndCause) (s : State) : (endFrame ch cause s).power = s.power :=
  (congrArg State.power (endFrame_frame ch cause s) :)

@[simp] theorem endFrame_tb (ch : Channel) (cause : EndCause) (s : State) : (endFrame ch cause s).tb = s.tb :=
  (congrArg State.tb (endFrame_frame ch cause s) :)

@[simp] theorem endFrame_biu (ch : Channel) (cause : EndCause) (s : State) : (endFrame ch cause s).biu = s.biu :=
  (congrArg State.biu (endFrame_frame ch cause s) :)

@[simp] theorem endFrame_au (ch : Channel) (cause : EndCause) (s : State) : (endFrame ch cause s).au = s.au :=
  (congrArg State.au (endFrame_frame ch cause s) :)

@[simp] theorem endFrame_du (ch : Channel) (cause : EndCause) (s : State) : (endFrame ch cause s).du = s.du :=
  (congrArg State.du (endFrame_frame ch cause s) :)

@[simp] theorem endFrame_mm (ch : Channel) (cause : EndCause) (s : State) : (endFrame ch cause s).mm = s.mm :=
  (congrArg State.mm (endFrame_frame ch cause s) :)

@[simp] theorem endFrame_evi (ch : Channel) (cause : EndCause) (s : State) : (endFrame ch cause s).evi = s.evi :=
  (congrArg State.evi (endFrame_frame ch cause s) :)

@[simp] theorem endFrame_hostRead (ch : Channel) (cause : EndCause) (s : State) : (endFrame ch cause s).hostRead = s.hostRead :=
  (congrArg State.hostRead (endFrame_frame ch cause s) :)

@[simp] theorem endFrame_gapDraws (ch : Channel) (cause : EndCause) (s : State) : (endFrame ch cause s).gapDraws = s.gapDraws :=
  (congrArg State.gapDraws (endFrame_frame ch cause s) :)

@[simp] theorem endFrame_idleTicks (ch : Channel) (cause : EndCause) (s : State) : (endFrame ch cause s).idleTicks = s.idleTicks :=
  (congrArg State.idleTicks (endFrame_frame ch cause s) :)

@[simp] theorem endFrame_pending (ch : Channel) (cause : EndCause) (s : State) : (endFrame ch cause s).pending = s.pending :=
  (congrArg State.pending (endFrame_frame ch cause s) :)

/-! ### offerEdge -/

theorem offerEdge_frame (stamp : Stamp) (s : State) (e : Fin 4 × EdgeDir) : offerEdge stamp s e = { s with cu := (offerEdge stamp s e).cu, tu := (offerEdge stamp s e).tu, niu := (offerEdge stamp s e).niu } := by
  unfold offerEdge; split
  · exact closeRecord_frame _ s
  · rfl

@[simp] theorem offerEdge_power (stamp : Stamp) (s : State) (e : Fin 4 × EdgeDir) : (offerEdge stamp s e).power = s.power :=
  (congrArg State.power (offerEdge_frame stamp s e) :)

@[simp] theorem offerEdge_tb (stamp : Stamp) (s : State) (e : Fin 4 × EdgeDir) : (offerEdge stamp s e).tb = s.tb :=
  (congrArg State.tb (offerEdge_frame stamp s e) :)

@[simp] theorem offerEdge_biu (stamp : Stamp) (s : State) (e : Fin 4 × EdgeDir) : (offerEdge stamp s e).biu = s.biu :=
  (congrArg State.biu (offerEdge_frame stamp s e) :)

@[simp] theorem offerEdge_au (stamp : Stamp) (s : State) (e : Fin 4 × EdgeDir) : (offerEdge stamp s e).au = s.au :=
  (congrArg State.au (offerEdge_frame stamp s e) :)

@[simp] theorem offerEdge_du (stamp : Stamp) (s : State) (e : Fin 4 × EdgeDir) : (offerEdge stamp s e).du = s.du :=
  (congrArg State.du (offerEdge_frame stamp s e) :)

@[simp] theorem offerEdge_mm (stamp : Stamp) (s : State) (e : Fin 4 × EdgeDir) : (offerEdge stamp s e).mm = s.mm :=
  (congrArg State.mm (offerEdge_frame stamp s e) :)

@[simp] theorem offerEdge_ser (stamp : Stamp) (s : State) (e : Fin 4 × EdgeDir) : (offerEdge stamp s e).ser = s.ser :=
  (congrArg State.ser (offerEdge_frame stamp s e) :)

@[simp] theorem offerEdge_evi (stamp : Stamp) (s : State) (e : Fin 4 × EdgeDir) : (offerEdge stamp s e).evi = s.evi :=
  (congrArg State.evi (offerEdge_frame stamp s e) :)

@[simp] theorem offerEdge_hostRead (stamp : Stamp) (s : State) (e : Fin 4 × EdgeDir) : (offerEdge stamp s e).hostRead = s.hostRead :=
  (congrArg State.hostRead (offerEdge_frame stamp s e) :)

@[simp] theorem offerEdge_gapDraws (stamp : Stamp) (s : State) (e : Fin 4 × EdgeDir) : (offerEdge stamp s e).gapDraws = s.gapDraws :=
  (congrArg State.gapDraws (offerEdge_frame stamp s e) :)

@[simp] theorem offerEdge_idleTicks (stamp : Stamp) (s : State) (e : Fin 4 × EdgeDir) : (offerEdge stamp s e).idleTicks = s.idleTicks :=
  (congrArg State.idleTicks (offerEdge_frame stamp s e) :)

@[simp] theorem offerEdge_pending (stamp : Stamp) (s : State) (e : Fin 4 × EdgeDir) : (offerEdge stamp s e).pending = s.pending :=
  (congrArg State.pending (offerEdge_frame stamp s e) :)

/-! ### offerEdges -/

theorem offerEdges_frame (stamp : Stamp) (s : State) (es : List (Fin 4 × EdgeDir)) : es.foldl (offerEdge stamp) s = { s with cu := (es.foldl (offerEdge stamp) s).cu, tu := (es.foldl (offerEdge stamp) s).tu, niu := (es.foldl (offerEdge stamp) s).niu } := by
  induction es generalizing s with
  | nil => rfl
  | cons e es ih =>
    rw [List.foldl_cons, ih, offerEdge_frame]

@[simp] theorem offerEdges_power (stamp : Stamp) (s : State) (es : List (Fin 4 × EdgeDir)) : (es.foldl (offerEdge stamp) s).power = s.power :=
  (congrArg State.power (offerEdges_frame stamp s es) :)

@[simp] theorem offerEdges_tb (stamp : Stamp) (s : State) (es : List (Fin 4 × EdgeDir)) : (es.foldl (offerEdge stamp) s).tb = s.tb :=
  (congrArg State.tb (offerEdges_frame stamp s es) :)

@[simp] theorem offerEdges_biu (stamp : Stamp) (s : State) (es : List (Fin 4 × EdgeDir)) : (es.foldl (offerEdge stamp) s).biu = s.biu :=
  (congrArg State.biu (offerEdges_frame stamp s es) :)

@[simp] theorem offerEdges_au (stamp : Stamp) (s : State) (es : List (Fin 4 × EdgeDir)) : (es.foldl (offerEdge stamp) s).au = s.au :=
  (congrArg State.au (offerEdges_frame stamp s es) :)

@[simp] theorem offerEdges_du (stamp : Stamp) (s : State) (es : List (Fin 4 × EdgeDir)) : (es.foldl (offerEdge stamp) s).du = s.du :=
  (congrArg State.du (offerEdges_frame stamp s es) :)

@[simp] theorem offerEdges_mm (stamp : Stamp) (s : State) (es : List (Fin 4 × EdgeDir)) : (es.foldl (offerEdge stamp) s).mm = s.mm :=
  (congrArg State.mm (offerEdges_frame stamp s es) :)

@[simp] theorem offerEdges_ser (stamp : Stamp) (s : State) (es : List (Fin 4 × EdgeDir)) : (es.foldl (offerEdge stamp) s).ser = s.ser :=
  (congrArg State.ser (offerEdges_frame stamp s es) :)

@[simp] theorem offerEdges_evi (stamp : Stamp) (s : State) (es : List (Fin 4 × EdgeDir)) : (es.foldl (offerEdge stamp) s).evi = s.evi :=
  (congrArg State.evi (offerEdges_frame stamp s es) :)

@[simp] theorem offerEdges_hostRead (stamp : Stamp) (s : State) (es : List (Fin 4 × EdgeDir)) : (es.foldl (offerEdge stamp) s).hostRead = s.hostRead :=
  (congrArg State.hostRead (offerEdges_frame stamp s es) :)

@[simp] theorem offerEdges_gapDraws (stamp : Stamp) (s : State) (es : List (Fin 4 × EdgeDir)) : (es.foldl (offerEdge stamp) s).gapDraws = s.gapDraws :=
  (congrArg State.gapDraws (offerEdges_frame stamp s es) :)

@[simp] theorem offerEdges_idleTicks (stamp : Stamp) (s : State) (es : List (Fin 4 × EdgeDir)) : (es.foldl (offerEdge stamp) s).idleTicks = s.idleTicks :=
  (congrArg State.idleTicks (offerEdges_frame stamp s es) :)

@[simp] theorem offerEdges_pending (stamp : Stamp) (s : State) (es : List (Fin 4 × EdgeDir)) : (es.foldl (offerEdge stamp) s).pending = s.pending :=
  (congrArg State.pending (offerEdges_frame stamp s es) :)

/-! ### takeCharacter -/

theorem takeCharacter_frame (ch : Channel) (byte : Byte) (wrong stopBit : Bool) (s : State) : takeCharacter ch byte wrong stopBit s = { s with ser := (takeCharacter ch byte wrong stopBit s).ser, cu := (takeCharacter ch byte wrong stopBit s).cu, tu := (takeCharacter ch byte wrong stopBit s).tu, niu := (takeCharacter ch byte wrong stopBit s).niu } := by
  unfold takeCharacter; simp only
  split <;> split <;> (try rw [endFrame_frame]) <;> (try rfl) <;> (split <;> (try rw [endFrame_frame]) <;> rfl)

@[simp] theorem takeCharacter_power (ch : Channel) (byte : Byte) (wrong stopBit : Bool) (s : State) : (takeCharacter ch byte wrong stopBit s).power = s.power :=
  (congrArg State.power (takeCharacter_frame ch byte wrong stopBit s) :)

@[simp] theorem takeCharacter_tb (ch : Channel) (byte : Byte) (wrong stopBit : Bool) (s : State) : (takeCharacter ch byte wrong stopBit s).tb = s.tb :=
  (congrArg State.tb (takeCharacter_frame ch byte wrong stopBit s) :)

@[simp] theorem takeCharacter_biu (ch : Channel) (byte : Byte) (wrong stopBit : Bool) (s : State) : (takeCharacter ch byte wrong stopBit s).biu = s.biu :=
  (congrArg State.biu (takeCharacter_frame ch byte wrong stopBit s) :)

@[simp] theorem takeCharacter_au (ch : Channel) (byte : Byte) (wrong stopBit : Bool) (s : State) : (takeCharacter ch byte wrong stopBit s).au = s.au :=
  (congrArg State.au (takeCharacter_frame ch byte wrong stopBit s) :)

@[simp] theorem takeCharacter_du (ch : Channel) (byte : Byte) (wrong stopBit : Bool) (s : State) : (takeCharacter ch byte wrong stopBit s).du = s.du :=
  (congrArg State.du (takeCharacter_frame ch byte wrong stopBit s) :)

@[simp] theorem takeCharacter_mm (ch : Channel) (byte : Byte) (wrong stopBit : Bool) (s : State) : (takeCharacter ch byte wrong stopBit s).mm = s.mm :=
  (congrArg State.mm (takeCharacter_frame ch byte wrong stopBit s) :)

@[simp] theorem takeCharacter_evi (ch : Channel) (byte : Byte) (wrong stopBit : Bool) (s : State) : (takeCharacter ch byte wrong stopBit s).evi = s.evi :=
  (congrArg State.evi (takeCharacter_frame ch byte wrong stopBit s) :)

@[simp] theorem takeCharacter_hostRead (ch : Channel) (byte : Byte) (wrong stopBit : Bool) (s : State) : (takeCharacter ch byte wrong stopBit s).hostRead = s.hostRead :=
  (congrArg State.hostRead (takeCharacter_frame ch byte wrong stopBit s) :)

@[simp] theorem takeCharacter_gapDraws (ch : Channel) (byte : Byte) (wrong stopBit : Bool) (s : State) : (takeCharacter ch byte wrong stopBit s).gapDraws = s.gapDraws :=
  (congrArg State.gapDraws (takeCharacter_frame ch byte wrong stopBit s) :)

@[simp] theorem takeCharacter_idleTicks (ch : Channel) (byte : Byte) (wrong stopBit : Bool) (s : State) : (takeCharacter ch byte wrong stopBit s).idleTicks = s.idleTicks :=
  (congrArg State.idleTicks (takeCharacter_frame ch byte wrong stopBit s) :)

@[simp] theorem takeCharacter_pending (ch : Channel) (byte : Byte) (wrong stopBit : Bool) (s : State) : (takeCharacter ch byte wrong stopBit s).pending = s.pending :=
  (congrArg State.pending (takeCharacter_frame ch byte wrong stopBit s) :)

/-! ### occurrenceSend -/

theorem occurrenceSend_frame (i : Fin 64) (e : Entry) (s : State) : (occurrenceSend i e s).1 = { s with ser := ((occurrenceSend i e s).1).ser, mm := ((occurrenceSend i e s).1).mm, niu := ((occurrenceSend i e s).1).niu } := by
  unfold occurrenceSend; split
  · rfl
  · split
    · simp only; rw [joinSend_frame]
    · rfl

@[simp] theorem occurrenceSend_power (i : Fin 64) (e : Entry) (s : State) : ((occurrenceSend i e s).1).power = s.power :=
  (congrArg State.power (occurrenceSend_frame i e s) :)

@[simp] theorem occurrenceSend_tb (i : Fin 64) (e : Entry) (s : State) : ((occurrenceSend i e s).1).tb = s.tb :=
  (congrArg State.tb (occurrenceSend_frame i e s) :)

@[simp] theorem occurrenceSend_biu (i : Fin 64) (e : Entry) (s : State) : ((occurrenceSend i e s).1).biu = s.biu :=
  (congrArg State.biu (occurrenceSend_frame i e s) :)

@[simp] theorem occurrenceSend_au (i : Fin 64) (e : Entry) (s : State) : ((occurrenceSend i e s).1).au = s.au :=
  (congrArg State.au (occurrenceSend_frame i e s) :)

@[simp] theorem occurrenceSend_du (i : Fin 64) (e : Entry) (s : State) : ((occurrenceSend i e s).1).du = s.du :=
  (congrArg State.du (occurrenceSend_frame i e s) :)

@[simp] theorem occurrenceSend_evi (i : Fin 64) (e : Entry) (s : State) : ((occurrenceSend i e s).1).evi = s.evi :=
  (congrArg State.evi (occurrenceSend_frame i e s) :)

@[simp] theorem occurrenceSend_cu (i : Fin 64) (e : Entry) (s : State) : ((occurrenceSend i e s).1).cu = s.cu :=
  (congrArg State.cu (occurrenceSend_frame i e s) :)

@[simp] theorem occurrenceSend_tu (i : Fin 64) (e : Entry) (s : State) : ((occurrenceSend i e s).1).tu = s.tu :=
  (congrArg State.tu (occurrenceSend_frame i e s) :)

@[simp] theorem occurrenceSend_hostRead (i : Fin 64) (e : Entry) (s : State) : ((occurrenceSend i e s).1).hostRead = s.hostRead :=
  (congrArg State.hostRead (occurrenceSend_frame i e s) :)

@[simp] theorem occurrenceSend_gapDraws (i : Fin 64) (e : Entry) (s : State) : ((occurrenceSend i e s).1).gapDraws = s.gapDraws :=
  (congrArg State.gapDraws (occurrenceSend_frame i e s) :)

@[simp] theorem occurrenceSend_idleTicks (i : Fin 64) (e : Entry) (s : State) : ((occurrenceSend i e s).1).idleTicks = s.idleTicks :=
  (congrArg State.idleTicks (occurrenceSend_frame i e s) :)

@[simp] theorem occurrenceSend_pending (i : Fin 64) (e : Entry) (s : State) : ((occurrenceSend i e s).1).pending = s.pending :=
  (congrArg State.pending (occurrenceSend_frame i e s) :)

/-! ### occurrenceChain -/

theorem occurrenceChain_frame (e : Entry) (s : State) : (occurrenceChain e s).1 = { s with au := ((occurrenceChain e s).1).au, niu := ((occurrenceChain e s).1).niu } := by
  unfold occurrenceChain; split
  · rfl
  · split <;> rfl

@[simp] theorem occurrenceChain_power (e : Entry) (s : State) : ((occurrenceChain e s).1).power = s.power :=
  (congrArg State.power (occurrenceChain_frame e s) :)

@[simp] theorem occurrenceChain_tb (e : Entry) (s : State) : ((occurrenceChain e s).1).tb = s.tb :=
  (congrArg State.tb (occurrenceChain_frame e s) :)

@[simp] theorem occurrenceChain_biu (e : Entry) (s : State) : ((occurrenceChain e s).1).biu = s.biu :=
  (congrArg State.biu (occurrenceChain_frame e s) :)

@[simp] theorem occurrenceChain_du (e : Entry) (s : State) : ((occurrenceChain e s).1).du = s.du :=
  (congrArg State.du (occurrenceChain_frame e s) :)

@[simp] theorem occurrenceChain_mm (e : Entry) (s : State) : ((occurrenceChain e s).1).mm = s.mm :=
  (congrArg State.mm (occurrenceChain_frame e s) :)

@[simp] theorem occurrenceChain_ser (e : Entry) (s : State) : ((occurrenceChain e s).1).ser = s.ser :=
  (congrArg State.ser (occurrenceChain_frame e s) :)

@[simp] theorem occurrenceChain_evi (e : Entry) (s : State) : ((occurrenceChain e s).1).evi = s.evi :=
  (congrArg State.evi (occurrenceChain_frame e s) :)

@[simp] theorem occurrenceChain_cu (e : Entry) (s : State) : ((occurrenceChain e s).1).cu = s.cu :=
  (congrArg State.cu (occurrenceChain_frame e s) :)

@[simp] theorem occurrenceChain_tu (e : Entry) (s : State) : ((occurrenceChain e s).1).tu = s.tu :=
  (congrArg State.tu (occurrenceChain_frame e s) :)

@[simp] theorem occurrenceChain_hostRead (e : Entry) (s : State) : ((occurrenceChain e s).1).hostRead = s.hostRead :=
  (congrArg State.hostRead (occurrenceChain_frame e s) :)

@[simp] theorem occurrenceChain_gapDraws (e : Entry) (s : State) : ((occurrenceChain e s).1).gapDraws = s.gapDraws :=
  (congrArg State.gapDraws (occurrenceChain_frame e s) :)

@[simp] theorem occurrenceChain_idleTicks (e : Entry) (s : State) : ((occurrenceChain e s).1).idleTicks = s.idleTicks :=
  (congrArg State.idleTicks (occurrenceChain_frame e s) :)

@[simp] theorem occurrenceChain_pending (e : Entry) (s : State) : ((occurrenceChain e s).1).pending = s.pending :=
  (congrArg State.pending (occurrenceChain_frame e s) :)

/-! ### settleOccurrence -/

theorem settleOccurrence_frame (i : Fin 64) (onSpent : Bool) (a : Entry × Option SpentReason) (s : State) : settleOccurrence i onSpent a s = { s with au := (settleOccurrence i onSpent a s).au, niu := (settleOccurrence i onSpent a s).niu } := by
  unfold settleOccurrence; split
  · rfl
  · rw [postIf_frame]

@[simp] theorem settleOccurrence_power (i : Fin 64) (onSpent : Bool) (a : Entry × Option SpentReason) (s : State) : (settleOccurrence i onSpent a s).power = s.power :=
  (congrArg State.power (settleOccurrence_frame i onSpent a s) :)

@[simp] theorem settleOccurrence_tb (i : Fin 64) (onSpent : Bool) (a : Entry × Option SpentReason) (s : State) : (settleOccurrence i onSpent a s).tb = s.tb :=
  (congrArg State.tb (settleOccurrence_frame i onSpent a s) :)

@[simp] theorem settleOccurrence_biu (i : Fin 64) (onSpent : Bool) (a : Entry × Option SpentReason) (s : State) : (settleOccurrence i onSpent a s).biu = s.biu :=
  (congrArg State.biu (settleOccurrence_frame i onSpent a s) :)

@[simp] theorem settleOccurrence_du (i : Fin 64) (onSpent : Bool) (a : Entry × Option SpentReason) (s : State) : (settleOccurrence i onSpent a s).du = s.du :=
  (congrArg State.du (settleOccurrence_frame i onSpent a s) :)

@[simp] theorem settleOccurrence_mm (i : Fin 64) (onSpent : Bool) (a : Entry × Option SpentReason) (s : State) : (settleOccurrence i onSpent a s).mm = s.mm :=
  (congrArg State.mm (settleOccurrence_frame i onSpent a s) :)

@[simp] theorem settleOccurrence_ser (i : Fin 64) (onSpent : Bool) (a : Entry × Option SpentReason) (s : State) : (settleOccurrence i onSpent a s).ser = s.ser :=
  (congrArg State.ser (settleOccurrence_frame i onSpent a s) :)

@[simp] theorem settleOccurrence_evi (i : Fin 64) (onSpent : Bool) (a : Entry × Option SpentReason) (s : State) : (settleOccurrence i onSpent a s).evi = s.evi :=
  (congrArg State.evi (settleOccurrence_frame i onSpent a s) :)

@[simp] theorem settleOccurrence_cu (i : Fin 64) (onSpent : Bool) (a : Entry × Option SpentReason) (s : State) : (settleOccurrence i onSpent a s).cu = s.cu :=
  (congrArg State.cu (settleOccurrence_frame i onSpent a s) :)

@[simp] theorem settleOccurrence_tu (i : Fin 64) (onSpent : Bool) (a : Entry × Option SpentReason) (s : State) : (settleOccurrence i onSpent a s).tu = s.tu :=
  (congrArg State.tu (settleOccurrence_frame i onSpent a s) :)

@[simp] theorem settleOccurrence_hostRead (i : Fin 64) (onSpent : Bool) (a : Entry × Option SpentReason) (s : State) : (settleOccurrence i onSpent a s).hostRead = s.hostRead :=
  (congrArg State.hostRead (settleOccurrence_frame i onSpent a s) :)

@[simp] theorem settleOccurrence_gapDraws (i : Fin 64) (onSpent : Bool) (a : Entry × Option SpentReason) (s : State) : (settleOccurrence i onSpent a s).gapDraws = s.gapDraws :=
  (congrArg State.gapDraws (settleOccurrence_frame i onSpent a s) :)

@[simp] theorem settleOccurrence_idleTicks (i : Fin 64) (onSpent : Bool) (a : Entry × Option SpentReason) (s : State) : (settleOccurrence i onSpent a s).idleTicks = s.idleTicks :=
  (congrArg State.idleTicks (settleOccurrence_frame i onSpent a s) :)

@[simp] theorem settleOccurrence_pending (i : Fin 64) (onSpent : Bool) (a : Entry × Option SpentReason) (s : State) : (settleOccurrence i onSpent a s).pending = s.pending :=
  (congrArg State.pending (settleOccurrence_frame i onSpent a s) :)

/-! ### performOccurrence -/

theorem performOccurrence_frame (i : Fin 64) (e : Entry) (s : State) : performOccurrence i e s = { s with au := (performOccurrence i e s).au, du := (performOccurrence i e s).du, mm := (performOccurrence i e s).mm, ser := (performOccurrence i e s).ser, niu := (performOccurrence i e s).niu } := by
  unfold performOccurrence; simp only
  rw [settleOccurrence_frame, postIf_frame, occurrenceChain_frame, occurrenceSend_frame]
  split <;> rfl

@[simp] theorem performOccurrence_power (i : Fin 64) (e : Entry) (s : State) : (performOccurrence i e s).power = s.power :=
  (congrArg State.power (performOccurrence_frame i e s) :)

@[simp] theorem performOccurrence_tb (i : Fin 64) (e : Entry) (s : State) : (performOccurrence i e s).tb = s.tb :=
  (congrArg State.tb (performOccurrence_frame i e s) :)

@[simp] theorem performOccurrence_biu (i : Fin 64) (e : Entry) (s : State) : (performOccurrence i e s).biu = s.biu :=
  (congrArg State.biu (performOccurrence_frame i e s) :)

@[simp] theorem performOccurrence_evi (i : Fin 64) (e : Entry) (s : State) : (performOccurrence i e s).evi = s.evi :=
  (congrArg State.evi (performOccurrence_frame i e s) :)

@[simp] theorem performOccurrence_cu (i : Fin 64) (e : Entry) (s : State) : (performOccurrence i e s).cu = s.cu :=
  (congrArg State.cu (performOccurrence_frame i e s) :)

@[simp] theorem performOccurrence_tu (i : Fin 64) (e : Entry) (s : State) : (performOccurrence i e s).tu = s.tu :=
  (congrArg State.tu (performOccurrence_frame i e s) :)

@[simp] theorem performOccurrence_hostRead (i : Fin 64) (e : Entry) (s : State) : (performOccurrence i e s).hostRead = s.hostRead :=
  (congrArg State.hostRead (performOccurrence_frame i e s) :)

@[simp] theorem performOccurrence_gapDraws (i : Fin 64) (e : Entry) (s : State) : (performOccurrence i e s).gapDraws = s.gapDraws :=
  (congrArg State.gapDraws (performOccurrence_frame i e s) :)

@[simp] theorem performOccurrence_idleTicks (i : Fin 64) (e : Entry) (s : State) : (performOccurrence i e s).idleTicks = s.idleTicks :=
  (congrArg State.idleTicks (performOccurrence_frame i e s) :)

@[simp] theorem performOccurrence_pending (i : Fin 64) (e : Entry) (s : State) : (performOccurrence i e s).pending = s.pending :=
  (congrArg State.pending (performOccurrence_frame i e s) :)

/-! ### missOccurrence -/

theorem missOccurrence_frame (i : Fin 64) (e : Entry) (s : State) : missOccurrence i e s = { s with au := (missOccurrence i e s).au, niu := (missOccurrence i e s).niu } := by
  unfold missOccurrence; simp only
  rw [settleOccurrence_frame, postIf_frame]

@[simp] theorem missOccurrence_power (i : Fin 64) (e : Entry) (s : State) : (missOccurrence i e s).power = s.power :=
  (congrArg State.power (missOccurrence_frame i e s) :)

@[simp] theorem missOccurrence_tb (i : Fin 64) (e : Entry) (s : State) : (missOccurrence i e s).tb = s.tb :=
  (congrArg State.tb (missOccurrence_frame i e s) :)

@[simp] theorem missOccurrence_biu (i : Fin 64) (e : Entry) (s : State) : (missOccurrence i e s).biu = s.biu :=
  (congrArg State.biu (missOccurrence_frame i e s) :)

@[simp] theorem missOccurrence_du (i : Fin 64) (e : Entry) (s : State) : (missOccurrence i e s).du = s.du :=
  (congrArg State.du (missOccurrence_frame i e s) :)

@[simp] theorem missOccurrence_mm (i : Fin 64) (e : Entry) (s : State) : (missOccurrence i e s).mm = s.mm :=
  (congrArg State.mm (missOccurrence_frame i e s) :)

@[simp] theorem missOccurrence_ser (i : Fin 64) (e : Entry) (s : State) : (missOccurrence i e s).ser = s.ser :=
  (congrArg State.ser (missOccurrence_frame i e s) :)

@[simp] theorem missOccurrence_evi (i : Fin 64) (e : Entry) (s : State) : (missOccurrence i e s).evi = s.evi :=
  (congrArg State.evi (missOccurrence_frame i e s) :)

@[simp] theorem missOccurrence_cu (i : Fin 64) (e : Entry) (s : State) : (missOccurrence i e s).cu = s.cu :=
  (congrArg State.cu (missOccurrence_frame i e s) :)

@[simp] theorem missOccurrence_tu (i : Fin 64) (e : Entry) (s : State) : (missOccurrence i e s).tu = s.tu :=
  (congrArg State.tu (missOccurrence_frame i e s) :)

@[simp] theorem missOccurrence_hostRead (i : Fin 64) (e : Entry) (s : State) : (missOccurrence i e s).hostRead = s.hostRead :=
  (congrArg State.hostRead (missOccurrence_frame i e s) :)

@[simp] theorem missOccurrence_gapDraws (i : Fin 64) (e : Entry) (s : State) : (missOccurrence i e s).gapDraws = s.gapDraws :=
  (congrArg State.gapDraws (missOccurrence_frame i e s) :)

@[simp] theorem missOccurrence_idleTicks (i : Fin 64) (e : Entry) (s : State) : (missOccurrence i e s).idleTicks = s.idleTicks :=
  (congrArg State.idleTicks (missOccurrence_frame i e s) :)

@[simp] theorem missOccurrence_pending (i : Fin 64) (e : Entry) (s : State) : (missOccurrence i e s).pending = s.pending :=
  (congrArg State.pending (missOccurrence_frame i e s) :)

/-! ### takeOccurrence -/

theorem takeOccurrence_frame (i : Fin 64) (rest : List (Fin 64)) (s : State) : takeOccurrence i rest s = { s with au := (takeOccurrence i rest s).au, du := (takeOccurrence i rest s).du, mm := (takeOccurrence i rest s).mm, ser := (takeOccurrence i rest s).ser, niu := (takeOccurrence i rest s).niu } := by
  unfold takeOccurrence; simp only; split
  · rw [performOccurrence_frame]
  · rw [missOccurrence_frame]

@[simp] theorem takeOccurrence_power (i : Fin 64) (rest : List (Fin 64)) (s : State) : (takeOccurrence i rest s).power = s.power :=
  (congrArg State.power (takeOccurrence_frame i rest s) :)

@[simp] theorem takeOccurrence_tb (i : Fin 64) (rest : List (Fin 64)) (s : State) : (takeOccurrence i rest s).tb = s.tb :=
  (congrArg State.tb (takeOccurrence_frame i rest s) :)

@[simp] theorem takeOccurrence_biu (i : Fin 64) (rest : List (Fin 64)) (s : State) : (takeOccurrence i rest s).biu = s.biu :=
  (congrArg State.biu (takeOccurrence_frame i rest s) :)

@[simp] theorem takeOccurrence_evi (i : Fin 64) (rest : List (Fin 64)) (s : State) : (takeOccurrence i rest s).evi = s.evi :=
  (congrArg State.evi (takeOccurrence_frame i rest s) :)

@[simp] theorem takeOccurrence_cu (i : Fin 64) (rest : List (Fin 64)) (s : State) : (takeOccurrence i rest s).cu = s.cu :=
  (congrArg State.cu (takeOccurrence_frame i rest s) :)

@[simp] theorem takeOccurrence_tu (i : Fin 64) (rest : List (Fin 64)) (s : State) : (takeOccurrence i rest s).tu = s.tu :=
  (congrArg State.tu (takeOccurrence_frame i rest s) :)

@[simp] theorem takeOccurrence_hostRead (i : Fin 64) (rest : List (Fin 64)) (s : State) : (takeOccurrence i rest s).hostRead = s.hostRead :=
  (congrArg State.hostRead (takeOccurrence_frame i rest s) :)

@[simp] theorem takeOccurrence_gapDraws (i : Fin 64) (rest : List (Fin 64)) (s : State) : (takeOccurrence i rest s).gapDraws = s.gapDraws :=
  (congrArg State.gapDraws (takeOccurrence_frame i rest s) :)

@[simp] theorem takeOccurrence_idleTicks (i : Fin 64) (rest : List (Fin 64)) (s : State) : (takeOccurrence i rest s).idleTicks = s.idleTicks :=
  (congrArg State.idleTicks (takeOccurrence_frame i rest s) :)

@[simp] theorem takeOccurrence_pending (i : Fin 64) (rest : List (Fin 64)) (s : State) : (takeOccurrence i rest s).pending = s.pending :=
  (congrArg State.pending (takeOccurrence_frame i rest s) :)

/-! ### takeArmRequest -/

theorem takeArmRequest_frame (s : State) (q : ArmRequest) : takeArmRequest s q = { s with au := (takeArmRequest s q).au, tu := (takeArmRequest s q).tu, niu := (takeArmRequest s q).niu } := by
  unfold takeArmRequest; split
  · simp only; split <;> rfl
  · rw [triggerMiss_frame]

@[simp] theorem takeArmRequest_power (s : State) (q : ArmRequest) : (takeArmRequest s q).power = s.power :=
  (congrArg State.power (takeArmRequest_frame s q) :)

@[simp] theorem takeArmRequest_tb (s : State) (q : ArmRequest) : (takeArmRequest s q).tb = s.tb :=
  (congrArg State.tb (takeArmRequest_frame s q) :)

@[simp] theorem takeArmRequest_biu (s : State) (q : ArmRequest) : (takeArmRequest s q).biu = s.biu :=
  (congrArg State.biu (takeArmRequest_frame s q) :)

@[simp] theorem takeArmRequest_du (s : State) (q : ArmRequest) : (takeArmRequest s q).du = s.du :=
  (congrArg State.du (takeArmRequest_frame s q) :)

@[simp] theorem takeArmRequest_mm (s : State) (q : ArmRequest) : (takeArmRequest s q).mm = s.mm :=
  (congrArg State.mm (takeArmRequest_frame s q) :)

@[simp] theorem takeArmRequest_ser (s : State) (q : ArmRequest) : (takeArmRequest s q).ser = s.ser :=
  (congrArg State.ser (takeArmRequest_frame s q) :)

@[simp] theorem takeArmRequest_evi (s : State) (q : ArmRequest) : (takeArmRequest s q).evi = s.evi :=
  (congrArg State.evi (takeArmRequest_frame s q) :)

@[simp] theorem takeArmRequest_cu (s : State) (q : ArmRequest) : (takeArmRequest s q).cu = s.cu :=
  (congrArg State.cu (takeArmRequest_frame s q) :)

@[simp] theorem takeArmRequest_hostRead (s : State) (q : ArmRequest) : (takeArmRequest s q).hostRead = s.hostRead :=
  (congrArg State.hostRead (takeArmRequest_frame s q) :)

@[simp] theorem takeArmRequest_gapDraws (s : State) (q : ArmRequest) : (takeArmRequest s q).gapDraws = s.gapDraws :=
  (congrArg State.gapDraws (takeArmRequest_frame s q) :)

@[simp] theorem takeArmRequest_idleTicks (s : State) (q : ArmRequest) : (takeArmRequest s q).idleTicks = s.idleTicks :=
  (congrArg State.idleTicks (takeArmRequest_frame s q) :)

@[simp] theorem takeArmRequest_pending (s : State) (q : ArmRequest) : (takeArmRequest s q).pending = s.pending :=
  (congrArg State.pending (takeArmRequest_frame s q) :)

/-! ### takeArmRequests -/

theorem takeArmRequests_frame (s : State) (qs : List ArmRequest) : qs.foldl takeArmRequest s = { s with au := (qs.foldl takeArmRequest s).au, tu := (qs.foldl takeArmRequest s).tu, niu := (qs.foldl takeArmRequest s).niu } := by
  induction qs generalizing s with
  | nil => rfl
  | cons q qs ih =>
    rw [List.foldl_cons, ih, takeArmRequest_frame]

@[simp] theorem takeArmRequests_power (s : State) (qs : List ArmRequest) : (qs.foldl takeArmRequest s).power = s.power :=
  (congrArg State.power (takeArmRequests_frame s qs) :)

@[simp] theorem takeArmRequests_tb (s : State) (qs : List ArmRequest) : (qs.foldl takeArmRequest s).tb = s.tb :=
  (congrArg State.tb (takeArmRequests_frame s qs) :)

@[simp] theorem takeArmRequests_biu (s : State) (qs : List ArmRequest) : (qs.foldl takeArmRequest s).biu = s.biu :=
  (congrArg State.biu (takeArmRequests_frame s qs) :)

@[simp] theorem takeArmRequests_du (s : State) (qs : List ArmRequest) : (qs.foldl takeArmRequest s).du = s.du :=
  (congrArg State.du (takeArmRequests_frame s qs) :)

@[simp] theorem takeArmRequests_mm (s : State) (qs : List ArmRequest) : (qs.foldl takeArmRequest s).mm = s.mm :=
  (congrArg State.mm (takeArmRequests_frame s qs) :)

@[simp] theorem takeArmRequests_ser (s : State) (qs : List ArmRequest) : (qs.foldl takeArmRequest s).ser = s.ser :=
  (congrArg State.ser (takeArmRequests_frame s qs) :)

@[simp] theorem takeArmRequests_evi (s : State) (qs : List ArmRequest) : (qs.foldl takeArmRequest s).evi = s.evi :=
  (congrArg State.evi (takeArmRequests_frame s qs) :)

@[simp] theorem takeArmRequests_cu (s : State) (qs : List ArmRequest) : (qs.foldl takeArmRequest s).cu = s.cu :=
  (congrArg State.cu (takeArmRequests_frame s qs) :)

@[simp] theorem takeArmRequests_hostRead (s : State) (qs : List ArmRequest) : (qs.foldl takeArmRequest s).hostRead = s.hostRead :=
  (congrArg State.hostRead (takeArmRequests_frame s qs) :)

@[simp] theorem takeArmRequests_gapDraws (s : State) (qs : List ArmRequest) : (qs.foldl takeArmRequest s).gapDraws = s.gapDraws :=
  (congrArg State.gapDraws (takeArmRequests_frame s qs) :)

@[simp] theorem takeArmRequests_idleTicks (s : State) (qs : List ArmRequest) : (qs.foldl takeArmRequest s).idleTicks = s.idleTicks :=
  (congrArg State.idleTicks (takeArmRequests_frame s qs) :)

@[simp] theorem takeArmRequests_pending (s : State) (qs : List ArmRequest) : (qs.foldl takeArmRequest s).pending = s.pending :=
  (congrArg State.pending (takeArmRequests_frame s qs) :)

/-! ### completeAgenda -/

theorem completeAgenda_frame (s : State) : completeAgenda s = { s with biu := (completeAgenda s).biu, au := (completeAgenda s).au } := by
  unfold completeAgenda; split <;> rfl

@[simp] theorem completeAgenda_power (s : State) : (completeAgenda s).power = s.power :=
  (congrArg State.power (completeAgenda_frame s) :)

@[simp] theorem completeAgenda_tb (s : State) : (completeAgenda s).tb = s.tb :=
  (congrArg State.tb (completeAgenda_frame s) :)

@[simp] theorem completeAgenda_du (s : State) : (completeAgenda s).du = s.du :=
  (congrArg State.du (completeAgenda_frame s) :)

@[simp] theorem completeAgenda_mm (s : State) : (completeAgenda s).mm = s.mm :=
  (congrArg State.mm (completeAgenda_frame s) :)

@[simp] theorem completeAgenda_ser (s : State) : (completeAgenda s).ser = s.ser :=
  (congrArg State.ser (completeAgenda_frame s) :)

@[simp] theorem completeAgenda_evi (s : State) : (completeAgenda s).evi = s.evi :=
  (congrArg State.evi (completeAgenda_frame s) :)

@[simp] theorem completeAgenda_cu (s : State) : (completeAgenda s).cu = s.cu :=
  (congrArg State.cu (completeAgenda_frame s) :)

@[simp] theorem completeAgenda_tu (s : State) : (completeAgenda s).tu = s.tu :=
  (congrArg State.tu (completeAgenda_frame s) :)

@[simp] theorem completeAgenda_niu (s : State) : (completeAgenda s).niu = s.niu :=
  (congrArg State.niu (completeAgenda_frame s) :)

@[simp] theorem completeAgenda_hostRead (s : State) : (completeAgenda s).hostRead = s.hostRead :=
  (congrArg State.hostRead (completeAgenda_frame s) :)

@[simp] theorem completeAgenda_gapDraws (s : State) : (completeAgenda s).gapDraws = s.gapDraws :=
  (congrArg State.gapDraws (completeAgenda_frame s) :)

@[simp] theorem completeAgenda_idleTicks (s : State) : (completeAgenda s).idleTicks = s.idleTicks :=
  (congrArg State.idleTicks (completeAgenda_frame s) :)

@[simp] theorem completeAgenda_pending (s : State) : (completeAgenda s).pending = s.pending :=
  (congrArg State.pending (completeAgenda_frame s) :)

/-! ### leaveAll -/

theorem leaveAll_frame (f : Request → State → State) (s : State) (rs : List Request)
    (h : ∀ r s, f r s = { s with mm := (f r s).mm, niu := (f r s).niu }) : rs.foldl (fun s r => f r s) s = { s with mm := (rs.foldl (fun s r => f r s) s).mm, niu := (rs.foldl (fun s r => f r s) s).niu } := by
  induction rs generalizing s with
  | nil => rfl
  | cons r rs ih =>
    rw [List.foldl_cons, ih, h]

@[simp] theorem leaveAll_power (f : Request → State → State) (s : State) (rs : List Request)
    (h : ∀ r s, f r s = { s with mm := (f r s).mm, niu := (f r s).niu }) : (rs.foldl (fun s r => f r s) s).power = s.power :=
  (congrArg State.power (leaveAll_frame f s rs h) :)

@[simp] theorem leaveAll_tb (f : Request → State → State) (s : State) (rs : List Request)
    (h : ∀ r s, f r s = { s with mm := (f r s).mm, niu := (f r s).niu }) : (rs.foldl (fun s r => f r s) s).tb = s.tb :=
  (congrArg State.tb (leaveAll_frame f s rs h) :)

@[simp] theorem leaveAll_biu (f : Request → State → State) (s : State) (rs : List Request)
    (h : ∀ r s, f r s = { s with mm := (f r s).mm, niu := (f r s).niu }) : (rs.foldl (fun s r => f r s) s).biu = s.biu :=
  (congrArg State.biu (leaveAll_frame f s rs h) :)

@[simp] theorem leaveAll_au (f : Request → State → State) (s : State) (rs : List Request)
    (h : ∀ r s, f r s = { s with mm := (f r s).mm, niu := (f r s).niu }) : (rs.foldl (fun s r => f r s) s).au = s.au :=
  (congrArg State.au (leaveAll_frame f s rs h) :)

@[simp] theorem leaveAll_du (f : Request → State → State) (s : State) (rs : List Request)
    (h : ∀ r s, f r s = { s with mm := (f r s).mm, niu := (f r s).niu }) : (rs.foldl (fun s r => f r s) s).du = s.du :=
  (congrArg State.du (leaveAll_frame f s rs h) :)

@[simp] theorem leaveAll_ser (f : Request → State → State) (s : State) (rs : List Request)
    (h : ∀ r s, f r s = { s with mm := (f r s).mm, niu := (f r s).niu }) : (rs.foldl (fun s r => f r s) s).ser = s.ser :=
  (congrArg State.ser (leaveAll_frame f s rs h) :)

@[simp] theorem leaveAll_evi (f : Request → State → State) (s : State) (rs : List Request)
    (h : ∀ r s, f r s = { s with mm := (f r s).mm, niu := (f r s).niu }) : (rs.foldl (fun s r => f r s) s).evi = s.evi :=
  (congrArg State.evi (leaveAll_frame f s rs h) :)

@[simp] theorem leaveAll_cu (f : Request → State → State) (s : State) (rs : List Request)
    (h : ∀ r s, f r s = { s with mm := (f r s).mm, niu := (f r s).niu }) : (rs.foldl (fun s r => f r s) s).cu = s.cu :=
  (congrArg State.cu (leaveAll_frame f s rs h) :)

@[simp] theorem leaveAll_tu (f : Request → State → State) (s : State) (rs : List Request)
    (h : ∀ r s, f r s = { s with mm := (f r s).mm, niu := (f r s).niu }) : (rs.foldl (fun s r => f r s) s).tu = s.tu :=
  (congrArg State.tu (leaveAll_frame f s rs h) :)

@[simp] theorem leaveAll_hostRead (f : Request → State → State) (s : State) (rs : List Request)
    (h : ∀ r s, f r s = { s with mm := (f r s).mm, niu := (f r s).niu }) : (rs.foldl (fun s r => f r s) s).hostRead = s.hostRead :=
  (congrArg State.hostRead (leaveAll_frame f s rs h) :)

@[simp] theorem leaveAll_gapDraws (f : Request → State → State) (s : State) (rs : List Request)
    (h : ∀ r s, f r s = { s with mm := (f r s).mm, niu := (f r s).niu }) : (rs.foldl (fun s r => f r s) s).gapDraws = s.gapDraws :=
  (congrArg State.gapDraws (leaveAll_frame f s rs h) :)

@[simp] theorem leaveAll_idleTicks (f : Request → State → State) (s : State) (rs : List Request)
    (h : ∀ r s, f r s = { s with mm := (f r s).mm, niu := (f r s).niu }) : (rs.foldl (fun s r => f r s) s).idleTicks = s.idleTicks :=
  (congrArg State.idleTicks (leaveAll_frame f s rs h) :)

@[simp] theorem leaveAll_pending (f : Request → State → State) (s : State) (rs : List Request)
    (h : ∀ r s, f r s = { s with mm := (f r s).mm, niu := (f r s).niu }) : (rs.foldl (fun s r => f r s) s).pending = s.pending :=
  (congrArg State.pending (leaveAll_frame f s rs h) :)

/-! ### resetTransmitter -/

theorem resetTransmitter_frame (ch : Channel) (s : State) : resetTransmitter ch s = { s with ser := (resetTransmitter ch s).ser, mm := (resetTransmitter ch s).mm, niu := (resetTransmitter ch s).niu } := by
  unfold resetTransmitter; simp only
  rw [leaveAll_frame (h := fun r s => requestLeaves_frame r _ s)]; rfl

@[simp] theorem resetTransmitter_power (ch : Channel) (s : State) : (resetTransmitter ch s).power = s.power :=
  (congrArg State.power (resetTransmitter_frame ch s) :)

@[simp] theorem resetTransmitter_tb (ch : Channel) (s : State) : (resetTransmitter ch s).tb = s.tb :=
  (congrArg State.tb (resetTransmitter_frame ch s) :)

@[simp] theorem resetTransmitter_biu (ch : Channel) (s : State) : (resetTransmitter ch s).biu = s.biu :=
  (congrArg State.biu (resetTransmitter_frame ch s) :)

@[simp] theorem resetTransmitter_au (ch : Channel) (s : State) : (resetTransmitter ch s).au = s.au :=
  (congrArg State.au (resetTransmitter_frame ch s) :)

@[simp] theorem resetTransmitter_du (ch : Channel) (s : State) : (resetTransmitter ch s).du = s.du :=
  (congrArg State.du (resetTransmitter_frame ch s) :)

@[simp] theorem resetTransmitter_evi (ch : Channel) (s : State) : (resetTransmitter ch s).evi = s.evi :=
  (congrArg State.evi (resetTransmitter_frame ch s) :)

@[simp] theorem resetTransmitter_cu (ch : Channel) (s : State) : (resetTransmitter ch s).cu = s.cu :=
  (congrArg State.cu (resetTransmitter_frame ch s) :)

@[simp] theorem resetTransmitter_tu (ch : Channel) (s : State) : (resetTransmitter ch s).tu = s.tu :=
  (congrArg State.tu (resetTransmitter_frame ch s) :)

@[simp] theorem resetTransmitter_hostRead (ch : Channel) (s : State) : (resetTransmitter ch s).hostRead = s.hostRead :=
  (congrArg State.hostRead (resetTransmitter_frame ch s) :)

@[simp] theorem resetTransmitter_gapDraws (ch : Channel) (s : State) : (resetTransmitter ch s).gapDraws = s.gapDraws :=
  (congrArg State.gapDraws (resetTransmitter_frame ch s) :)

@[simp] theorem resetTransmitter_idleTicks (ch : Channel) (s : State) : (resetTransmitter ch s).idleTicks = s.idleTicks :=
  (congrArg State.idleTicks (resetTransmitter_frame ch s) :)

@[simp] theorem resetTransmitter_pending (ch : Channel) (s : State) : (resetTransmitter ch s).pending = s.pending :=
  (congrArg State.pending (resetTransmitter_frame ch s) :)

/-! ### tickTimeBase -/

theorem tickTimeBase_frame (s : State) : tickTimeBase s = { s with tb := (tickTimeBase s).tb, niu := (tickTimeBase s).niu } := by
  unfold tickTimeBase; simp only; split
  · rfl
  · split
    · split <;> rfl
    · rfl

@[simp] theorem tickTimeBase_power (s : State) : (tickTimeBase s).power = s.power :=
  (congrArg State.power (tickTimeBase_frame s) :)

@[simp] theorem tickTimeBase_biu (s : State) : (tickTimeBase s).biu = s.biu :=
  (congrArg State.biu (tickTimeBase_frame s) :)

@[simp] theorem tickTimeBase_au (s : State) : (tickTimeBase s).au = s.au :=
  (congrArg State.au (tickTimeBase_frame s) :)

@[simp] theorem tickTimeBase_du (s : State) : (tickTimeBase s).du = s.du :=
  (congrArg State.du (tickTimeBase_frame s) :)

@[simp] theorem tickTimeBase_mm (s : State) : (tickTimeBase s).mm = s.mm :=
  (congrArg State.mm (tickTimeBase_frame s) :)

@[simp] theorem tickTimeBase_ser (s : State) : (tickTimeBase s).ser = s.ser :=
  (congrArg State.ser (tickTimeBase_frame s) :)

@[simp] theorem tickTimeBase_evi (s : State) : (tickTimeBase s).evi = s.evi :=
  (congrArg State.evi (tickTimeBase_frame s) :)

@[simp] theorem tickTimeBase_cu (s : State) : (tickTimeBase s).cu = s.cu :=
  (congrArg State.cu (tickTimeBase_frame s) :)

@[simp] theorem tickTimeBase_tu (s : State) : (tickTimeBase s).tu = s.tu :=
  (congrArg State.tu (tickTimeBase_frame s) :)

@[simp] theorem tickTimeBase_hostRead (s : State) : (tickTimeBase s).hostRead = s.hostRead :=
  (congrArg State.hostRead (tickTimeBase_frame s) :)

@[simp] theorem tickTimeBase_gapDraws (s : State) : (tickTimeBase s).gapDraws = s.gapDraws :=
  (congrArg State.gapDraws (tickTimeBase_frame s) :)

@[simp] theorem tickTimeBase_idleTicks (s : State) : (tickTimeBase s).idleTicks = s.idleTicks :=
  (congrArg State.idleTicks (tickTimeBase_frame s) :)

@[simp] theorem tickTimeBase_pending (s : State) : (tickTimeBase s).pending = s.pending :=
  (congrArg State.pending (tickTimeBase_frame s) :)

/-! ### writePtrLow -/

theorem writePtrLow_frame (byte : Byte) (s : State) : writePtrLow byte s = { s with mm := (writePtrLow byte s).mm } := rfl

@[simp] theorem writePtrLow_power (byte : Byte) (s : State) : (writePtrLow byte s).power = s.power :=
  (congrArg State.power (writePtrLow_frame byte s) :)

@[simp] theorem writePtrLow_tb (byte : Byte) (s : State) : (writePtrLow byte s).tb = s.tb :=
  (congrArg State.tb (writePtrLow_frame byte s) :)

@[simp] theorem writePtrLow_biu (byte : Byte) (s : State) : (writePtrLow byte s).biu = s.biu :=
  (congrArg State.biu (writePtrLow_frame byte s) :)

@[simp] theorem writePtrLow_au (byte : Byte) (s : State) : (writePtrLow byte s).au = s.au :=
  (congrArg State.au (writePtrLow_frame byte s) :)

@[simp] theorem writePtrLow_du (byte : Byte) (s : State) : (writePtrLow byte s).du = s.du :=
  (congrArg State.du (writePtrLow_frame byte s) :)

@[simp] theorem writePtrLow_ser (byte : Byte) (s : State) : (writePtrLow byte s).ser = s.ser :=
  (congrArg State.ser (writePtrLow_frame byte s) :)

@[simp] theorem writePtrLow_evi (byte : Byte) (s : State) : (writePtrLow byte s).evi = s.evi :=
  (congrArg State.evi (writePtrLow_frame byte s) :)

@[simp] theorem writePtrLow_cu (byte : Byte) (s : State) : (writePtrLow byte s).cu = s.cu :=
  (congrArg State.cu (writePtrLow_frame byte s) :)

@[simp] theorem writePtrLow_tu (byte : Byte) (s : State) : (writePtrLow byte s).tu = s.tu :=
  (congrArg State.tu (writePtrLow_frame byte s) :)

@[simp] theorem writePtrLow_niu (byte : Byte) (s : State) : (writePtrLow byte s).niu = s.niu :=
  (congrArg State.niu (writePtrLow_frame byte s) :)

@[simp] theorem writePtrLow_hostRead (byte : Byte) (s : State) : (writePtrLow byte s).hostRead = s.hostRead :=
  (congrArg State.hostRead (writePtrLow_frame byte s) :)

@[simp] theorem writePtrLow_gapDraws (byte : Byte) (s : State) : (writePtrLow byte s).gapDraws = s.gapDraws :=
  (congrArg State.gapDraws (writePtrLow_frame byte s) :)

@[simp] theorem writePtrLow_idleTicks (byte : Byte) (s : State) : (writePtrLow byte s).idleTicks = s.idleTicks :=
  (congrArg State.idleTicks (writePtrLow_frame byte s) :)

@[simp] theorem writePtrLow_pending (byte : Byte) (s : State) : (writePtrLow byte s).pending = s.pending :=
  (congrArg State.pending (writePtrLow_frame byte s) :)

/-! ### writePtrHigh -/

theorem writePtrHigh_frame (byte : Byte) (s : State) : writePtrHigh byte s = { s with mm := (writePtrHigh byte s).mm } := rfl

@[simp] theorem writePtrHigh_power (byte : Byte) (s : State) : (writePtrHigh byte s).power = s.power :=
  (congrArg State.power (writePtrHigh_frame byte s) :)

@[simp] theorem writePtrHigh_tb (byte : Byte) (s : State) : (writePtrHigh byte s).tb = s.tb :=
  (congrArg State.tb (writePtrHigh_frame byte s) :)

@[simp] theorem writePtrHigh_biu (byte : Byte) (s : State) : (writePtrHigh byte s).biu = s.biu :=
  (congrArg State.biu (writePtrHigh_frame byte s) :)

@[simp] theorem writePtrHigh_au (byte : Byte) (s : State) : (writePtrHigh byte s).au = s.au :=
  (congrArg State.au (writePtrHigh_frame byte s) :)

@[simp] theorem writePtrHigh_du (byte : Byte) (s : State) : (writePtrHigh byte s).du = s.du :=
  (congrArg State.du (writePtrHigh_frame byte s) :)

@[simp] theorem writePtrHigh_ser (byte : Byte) (s : State) : (writePtrHigh byte s).ser = s.ser :=
  (congrArg State.ser (writePtrHigh_frame byte s) :)

@[simp] theorem writePtrHigh_evi (byte : Byte) (s : State) : (writePtrHigh byte s).evi = s.evi :=
  (congrArg State.evi (writePtrHigh_frame byte s) :)

@[simp] theorem writePtrHigh_cu (byte : Byte) (s : State) : (writePtrHigh byte s).cu = s.cu :=
  (congrArg State.cu (writePtrHigh_frame byte s) :)

@[simp] theorem writePtrHigh_tu (byte : Byte) (s : State) : (writePtrHigh byte s).tu = s.tu :=
  (congrArg State.tu (writePtrHigh_frame byte s) :)

@[simp] theorem writePtrHigh_niu (byte : Byte) (s : State) : (writePtrHigh byte s).niu = s.niu :=
  (congrArg State.niu (writePtrHigh_frame byte s) :)

@[simp] theorem writePtrHigh_hostRead (byte : Byte) (s : State) : (writePtrHigh byte s).hostRead = s.hostRead :=
  (congrArg State.hostRead (writePtrHigh_frame byte s) :)

@[simp] theorem writePtrHigh_gapDraws (byte : Byte) (s : State) : (writePtrHigh byte s).gapDraws = s.gapDraws :=
  (congrArg State.gapDraws (writePtrHigh_frame byte s) :)

@[simp] theorem writePtrHigh_idleTicks (byte : Byte) (s : State) : (writePtrHigh byte s).idleTicks = s.idleTicks :=
  (congrArg State.idleTicks (writePtrHigh_frame byte s) :)

@[simp] theorem writePtrHigh_pending (byte : Byte) (s : State) : (writePtrHigh byte s).pending = s.pending :=
  (congrArg State.pending (writePtrHigh_frame byte s) :)

/-! ### writeData -/

theorem writeData_frame (byte : Byte) (s : State) : writeData byte s = { s with mm := (writeData byte s).mm, niu := (writeData byte s).niu } := by
  unfold writeData; simp only; split <;> rfl

@[simp] theorem writeData_power (byte : Byte) (s : State) : (writeData byte s).power = s.power :=
  (congrArg State.power (writeData_frame byte s) :)

@[simp] theorem writeData_tb (byte : Byte) (s : State) : (writeData byte s).tb = s.tb :=
  (congrArg State.tb (writeData_frame byte s) :)

@[simp] theorem writeData_biu (byte : Byte) (s : State) : (writeData byte s).biu = s.biu :=
  (congrArg State.biu (writeData_frame byte s) :)

@[simp] theorem writeData_au (byte : Byte) (s : State) : (writeData byte s).au = s.au :=
  (congrArg State.au (writeData_frame byte s) :)

@[simp] theorem writeData_du (byte : Byte) (s : State) : (writeData byte s).du = s.du :=
  (congrArg State.du (writeData_frame byte s) :)

@[simp] theorem writeData_ser (byte : Byte) (s : State) : (writeData byte s).ser = s.ser :=
  (congrArg State.ser (writeData_frame byte s) :)

@[simp] theorem writeData_evi (byte : Byte) (s : State) : (writeData byte s).evi = s.evi :=
  (congrArg State.evi (writeData_frame byte s) :)

@[simp] theorem writeData_cu (byte : Byte) (s : State) : (writeData byte s).cu = s.cu :=
  (congrArg State.cu (writeData_frame byte s) :)

@[simp] theorem writeData_tu (byte : Byte) (s : State) : (writeData byte s).tu = s.tu :=
  (congrArg State.tu (writeData_frame byte s) :)

@[simp] theorem writeData_hostRead (byte : Byte) (s : State) : (writeData byte s).hostRead = s.hostRead :=
  (congrArg State.hostRead (writeData_frame byte s) :)

@[simp] theorem writeData_gapDraws (byte : Byte) (s : State) : (writeData byte s).gapDraws = s.gapDraws :=
  (congrArg State.gapDraws (writeData_frame byte s) :)

@[simp] theorem writeData_idleTicks (byte : Byte) (s : State) : (writeData byte s).idleTicks = s.idleTicks :=
  (congrArg State.idleTicks (writeData_frame byte s) :)

@[simp] theorem writeData_pending (byte : Byte) (s : State) : (writeData byte s).pending = s.pending :=
  (congrArg State.pending (writeData_frame byte s) :)

/-! ### writeFault -/

theorem writeFault_frame (byte : Byte) (s : State) : writeFault byte s = { s with niu := (writeFault byte s).niu } := rfl

@[simp] theorem writeFault_power (byte : Byte) (s : State) : (writeFault byte s).power = s.power :=
  (congrArg State.power (writeFault_frame byte s) :)

@[simp] theorem writeFault_tb (byte : Byte) (s : State) : (writeFault byte s).tb = s.tb :=
  (congrArg State.tb (writeFault_frame byte s) :)

@[simp] theorem writeFault_biu (byte : Byte) (s : State) : (writeFault byte s).biu = s.biu :=
  (congrArg State.biu (writeFault_frame byte s) :)

@[simp] theorem writeFault_au (byte : Byte) (s : State) : (writeFault byte s).au = s.au :=
  (congrArg State.au (writeFault_frame byte s) :)

@[simp] theorem writeFault_du (byte : Byte) (s : State) : (writeFault byte s).du = s.du :=
  (congrArg State.du (writeFault_frame byte s) :)

@[simp] theorem writeFault_mm (byte : Byte) (s : State) : (writeFault byte s).mm = s.mm :=
  (congrArg State.mm (writeFault_frame byte s) :)

@[simp] theorem writeFault_ser (byte : Byte) (s : State) : (writeFault byte s).ser = s.ser :=
  (congrArg State.ser (writeFault_frame byte s) :)

@[simp] theorem writeFault_evi (byte : Byte) (s : State) : (writeFault byte s).evi = s.evi :=
  (congrArg State.evi (writeFault_frame byte s) :)

@[simp] theorem writeFault_cu (byte : Byte) (s : State) : (writeFault byte s).cu = s.cu :=
  (congrArg State.cu (writeFault_frame byte s) :)

@[simp] theorem writeFault_tu (byte : Byte) (s : State) : (writeFault byte s).tu = s.tu :=
  (congrArg State.tu (writeFault_frame byte s) :)

@[simp] theorem writeFault_hostRead (byte : Byte) (s : State) : (writeFault byte s).hostRead = s.hostRead :=
  (congrArg State.hostRead (writeFault_frame byte s) :)

@[simp] theorem writeFault_gapDraws (byte : Byte) (s : State) : (writeFault byte s).gapDraws = s.gapDraws :=
  (congrArg State.gapDraws (writeFault_frame byte s) :)

@[simp] theorem writeFault_idleTicks (byte : Byte) (s : State) : (writeFault byte s).idleTicks = s.idleTicks :=
  (congrArg State.idleTicks (writeFault_frame byte s) :)

@[simp] theorem writeFault_pending (byte : Byte) (s : State) : (writeFault byte s).pending = s.pending :=
  (congrArg State.pending (writeFault_frame byte s) :)

/-! ### writeFaultEnable -/

theorem writeFaultEnable_frame (byte : Byte) (s : State) : writeFaultEnable byte s = { s with niu := (writeFaultEnable byte s).niu } := rfl

@[simp] theorem writeFaultEnable_power (byte : Byte) (s : State) : (writeFaultEnable byte s).power = s.power :=
  (congrArg State.power (writeFaultEnable_frame byte s) :)

@[simp] theorem writeFaultEnable_tb (byte : Byte) (s : State) : (writeFaultEnable byte s).tb = s.tb :=
  (congrArg State.tb (writeFaultEnable_frame byte s) :)

@[simp] theorem writeFaultEnable_biu (byte : Byte) (s : State) : (writeFaultEnable byte s).biu = s.biu :=
  (congrArg State.biu (writeFaultEnable_frame byte s) :)

@[simp] theorem writeFaultEnable_au (byte : Byte) (s : State) : (writeFaultEnable byte s).au = s.au :=
  (congrArg State.au (writeFaultEnable_frame byte s) :)

@[simp] theorem writeFaultEnable_du (byte : Byte) (s : State) : (writeFaultEnable byte s).du = s.du :=
  (congrArg State.du (writeFaultEnable_frame byte s) :)

@[simp] theorem writeFaultEnable_mm (byte : Byte) (s : State) : (writeFaultEnable byte s).mm = s.mm :=
  (congrArg State.mm (writeFaultEnable_frame byte s) :)

@[simp] theorem writeFaultEnable_ser (byte : Byte) (s : State) : (writeFaultEnable byte s).ser = s.ser :=
  (congrArg State.ser (writeFaultEnable_frame byte s) :)

@[simp] theorem writeFaultEnable_evi (byte : Byte) (s : State) : (writeFaultEnable byte s).evi = s.evi :=
  (congrArg State.evi (writeFaultEnable_frame byte s) :)

@[simp] theorem writeFaultEnable_cu (byte : Byte) (s : State) : (writeFaultEnable byte s).cu = s.cu :=
  (congrArg State.cu (writeFaultEnable_frame byte s) :)

@[simp] theorem writeFaultEnable_tu (byte : Byte) (s : State) : (writeFaultEnable byte s).tu = s.tu :=
  (congrArg State.tu (writeFaultEnable_frame byte s) :)

@[simp] theorem writeFaultEnable_hostRead (byte : Byte) (s : State) : (writeFaultEnable byte s).hostRead = s.hostRead :=
  (congrArg State.hostRead (writeFaultEnable_frame byte s) :)

@[simp] theorem writeFaultEnable_gapDraws (byte : Byte) (s : State) : (writeFaultEnable byte s).gapDraws = s.gapDraws :=
  (congrArg State.gapDraws (writeFaultEnable_frame byte s) :)

@[simp] theorem writeFaultEnable_idleTicks (byte : Byte) (s : State) : (writeFaultEnable byte s).idleTicks = s.idleTicks :=
  (congrArg State.idleTicks (writeFaultEnable_frame byte s) :)

@[simp] theorem writeFaultEnable_pending (byte : Byte) (s : State) : (writeFaultEnable byte s).pending = s.pending :=
  (congrArg State.pending (writeFaultEnable_frame byte s) :)

/-! ### writeCauseEnable -/

theorem writeCauseEnable_frame (byte : Byte) (s : State) : writeCauseEnable byte s = { s with niu := (writeCauseEnable byte s).niu } := rfl

@[simp] theorem writeCauseEnable_power (byte : Byte) (s : State) : (writeCauseEnable byte s).power = s.power :=
  (congrArg State.power (writeCauseEnable_frame byte s) :)

@[simp] theorem writeCauseEnable_tb (byte : Byte) (s : State) : (writeCauseEnable byte s).tb = s.tb :=
  (congrArg State.tb (writeCauseEnable_frame byte s) :)

@[simp] theorem writeCauseEnable_biu (byte : Byte) (s : State) : (writeCauseEnable byte s).biu = s.biu :=
  (congrArg State.biu (writeCauseEnable_frame byte s) :)

@[simp] theorem writeCauseEnable_au (byte : Byte) (s : State) : (writeCauseEnable byte s).au = s.au :=
  (congrArg State.au (writeCauseEnable_frame byte s) :)

@[simp] theorem writeCauseEnable_du (byte : Byte) (s : State) : (writeCauseEnable byte s).du = s.du :=
  (congrArg State.du (writeCauseEnable_frame byte s) :)

@[simp] theorem writeCauseEnable_mm (byte : Byte) (s : State) : (writeCauseEnable byte s).mm = s.mm :=
  (congrArg State.mm (writeCauseEnable_frame byte s) :)

@[simp] theorem writeCauseEnable_ser (byte : Byte) (s : State) : (writeCauseEnable byte s).ser = s.ser :=
  (congrArg State.ser (writeCauseEnable_frame byte s) :)

@[simp] theorem writeCauseEnable_evi (byte : Byte) (s : State) : (writeCauseEnable byte s).evi = s.evi :=
  (congrArg State.evi (writeCauseEnable_frame byte s) :)

@[simp] theorem writeCauseEnable_cu (byte : Byte) (s : State) : (writeCauseEnable byte s).cu = s.cu :=
  (congrArg State.cu (writeCauseEnable_frame byte s) :)

@[simp] theorem writeCauseEnable_tu (byte : Byte) (s : State) : (writeCauseEnable byte s).tu = s.tu :=
  (congrArg State.tu (writeCauseEnable_frame byte s) :)

@[simp] theorem writeCauseEnable_hostRead (byte : Byte) (s : State) : (writeCauseEnable byte s).hostRead = s.hostRead :=
  (congrArg State.hostRead (writeCauseEnable_frame byte s) :)

@[simp] theorem writeCauseEnable_gapDraws (byte : Byte) (s : State) : (writeCauseEnable byte s).gapDraws = s.gapDraws :=
  (congrArg State.gapDraws (writeCauseEnable_frame byte s) :)

@[simp] theorem writeCauseEnable_idleTicks (byte : Byte) (s : State) : (writeCauseEnable byte s).idleTicks = s.idleTicks :=
  (congrArg State.idleTicks (writeCauseEnable_frame byte s) :)

@[simp] theorem writeCauseEnable_pending (byte : Byte) (s : State) : (writeCauseEnable byte s).pending = s.pending :=
  (congrArg State.pending (writeCauseEnable_frame byte s) :)

/-! ### writeThreshold -/

theorem writeThreshold_frame (byte : Byte) (s : State) : writeThreshold byte s = { s with niu := (writeThreshold byte s).niu } := rfl

@[simp] theorem writeThreshold_power (byte : Byte) (s : State) : (writeThreshold byte s).power = s.power :=
  (congrArg State.power (writeThreshold_frame byte s) :)

@[simp] theorem writeThreshold_tb (byte : Byte) (s : State) : (writeThreshold byte s).tb = s.tb :=
  (congrArg State.tb (writeThreshold_frame byte s) :)

@[simp] theorem writeThreshold_biu (byte : Byte) (s : State) : (writeThreshold byte s).biu = s.biu :=
  (congrArg State.biu (writeThreshold_frame byte s) :)

@[simp] theorem writeThreshold_au (byte : Byte) (s : State) : (writeThreshold byte s).au = s.au :=
  (congrArg State.au (writeThreshold_frame byte s) :)

@[simp] theorem writeThreshold_du (byte : Byte) (s : State) : (writeThreshold byte s).du = s.du :=
  (congrArg State.du (writeThreshold_frame byte s) :)

@[simp] theorem writeThreshold_mm (byte : Byte) (s : State) : (writeThreshold byte s).mm = s.mm :=
  (congrArg State.mm (writeThreshold_frame byte s) :)

@[simp] theorem writeThreshold_ser (byte : Byte) (s : State) : (writeThreshold byte s).ser = s.ser :=
  (congrArg State.ser (writeThreshold_frame byte s) :)

@[simp] theorem writeThreshold_evi (byte : Byte) (s : State) : (writeThreshold byte s).evi = s.evi :=
  (congrArg State.evi (writeThreshold_frame byte s) :)

@[simp] theorem writeThreshold_cu (byte : Byte) (s : State) : (writeThreshold byte s).cu = s.cu :=
  (congrArg State.cu (writeThreshold_frame byte s) :)

@[simp] theorem writeThreshold_tu (byte : Byte) (s : State) : (writeThreshold byte s).tu = s.tu :=
  (congrArg State.tu (writeThreshold_frame byte s) :)

@[simp] theorem writeThreshold_hostRead (byte : Byte) (s : State) : (writeThreshold byte s).hostRead = s.hostRead :=
  (congrArg State.hostRead (writeThreshold_frame byte s) :)

@[simp] theorem writeThreshold_gapDraws (byte : Byte) (s : State) : (writeThreshold byte s).gapDraws = s.gapDraws :=
  (congrArg State.gapDraws (writeThreshold_frame byte s) :)

@[simp] theorem writeThreshold_idleTicks (byte : Byte) (s : State) : (writeThreshold byte s).idleTicks = s.idleTicks :=
  (congrArg State.idleTicks (writeThreshold_frame byte s) :)

@[simp] theorem writeThreshold_pending (byte : Byte) (s : State) : (writeThreshold byte s).pending = s.pending :=
  (congrArg State.pending (writeThreshold_frame byte s) :)

/-! ### The parts of a channel -/

@[simp] theorem get_set_same {α : Type} (p : PerChannel α) (ch : Channel) (x : α) : (p.set ch x).get ch = x := by
  cases ch <;> rfl

@[simp] theorem get_set_other {α : Type} (p : PerChannel α) (ch : Channel) (x : α) :
    (p.set ch x).get (otherChannel ch) = p.get (otherChannel ch) := by
  cases ch <;> rfl

theorem get_set {α : Type} (p : PerChannel α) (ch ch' : Channel) (x : α) :
    (p.set ch x).get ch' = if ch' = ch then x else p.get ch' := by
  cases ch <;> cases ch' <;> rfl

@[simp] theorem set_get {α : Type} (p : PerChannel α) (ch : Channel) : p.set ch (p.get ch) = p := by
  cases ch <;> rfl

@[simp] theorem set_set {α : Type} (p : PerChannel α) (ch : Channel) (x y : α) : (p.set ch x).set ch y = p.set ch y := by
  cases ch <;> rfl

@[simp] theorem withTx_tx (s : State) (ch : Channel) (t : Transmitter) : (s.withTx ch t).tx ch = t := by
  cases ch <;> rfl

@[simp] theorem withTx_rx (s : State) (ch ch' : Channel) (t : Transmitter) : (s.withTx ch t).rx ch' = s.rx ch' := by
  cases ch <;> cases ch' <;> rfl

@[simp] theorem withTx_config (s : State) (ch ch' : Channel) (t : Transmitter) :
    ((s.withTx ch t).chan ch').config = (s.chan ch').config := by
  cases ch <;> cases ch' <;> rfl

@[simp] theorem withRx_rx (s : State) (ch : Channel) (r : Receiver) : (s.withRx ch r).rx ch = r := by
  cases ch <;> rfl

@[simp] theorem withRx_tx (s : State) (ch ch' : Channel) (r : Receiver) : (s.withRx ch r).tx ch' = s.tx ch' := by
  cases ch <;> cases ch' <;> rfl

@[simp] theorem withRx_config (s : State) (ch ch' : Channel) (r : Receiver) :
    ((s.withRx ch r).chan ch').config = (s.chan ch').config := by
  cases ch <;> cases ch' <;> rfl

@[simp] theorem withTx_withTx (s : State) (ch : Channel) (t u : Transmitter) :
    (s.withTx ch t).withTx ch u = s.withTx ch u := by
  cases ch <;> rfl

@[simp] theorem withRx_withRx (s : State) (ch : Channel) (r u : Receiver) :
    (s.withRx ch r).withRx ch u = s.withRx ch u := by
  cases ch <;> rfl

@[simp] theorem withTx_self (s : State) (ch : Channel) : s.withTx ch (s.tx ch) = s := by
  cases ch <;> rfl

@[simp] theorem withRx_self (s : State) (ch : Channel) : s.withRx ch (s.rx ch) = s := by
  cases ch <;> rfl

@[simp] theorem withTx_loop (s : State) (ch : Channel) (t : Transmitter) : (s.withTx ch t).ser.loop = s.ser.loop := rfl

@[simp] theorem withRx_loop (s : State) (ch : Channel) (r : Receiver) : (s.withRx ch r).ser.loop = s.ser.loop := rfl

theorem withTx_tx_other (s : State) (ch : Channel) (t : Transmitter) :
    (s.withTx ch t).tx (otherChannel ch) = s.tx (otherChannel ch) := by
  cases ch <;> rfl

theorem withRx_rx_other (s : State) (ch : Channel) (r : Receiver) :
    (s.withRx ch r).rx (otherChannel ch) = s.rx (otherChannel ch) := by
  cases ch <;> rfl

@[simp] theorem putOnLine_tx (s : State) (ch ch' : Channel) (t : Transmitter) :
    (putOnLine ch t s).tx ch' = (s.withTx ch t).tx ch' := by
  unfold putOnLine; split <;> simp

@[simp] theorem putOnLine_config (s : State) (ch ch' : Channel) (t : Transmitter) :
    ((putOnLine ch t s).chan ch').config = (s.chan ch').config := by
  unfold putOnLine; split <;> simp

@[simp] theorem putOnLine_loop (s : State) (ch : Channel) (t : Transmitter) : (putOnLine ch t s).ser.loop = s.ser.loop := by
  unfold putOnLine; split <;> rfl

@[simp] theorem putOnLine_rx_same (s : State) (ch : Channel) (t : Transmitter) : (putOnLine ch t s).rx ch = s.rx ch := by
  unfold putOnLine
  split
  · cases ch <;> rfl
  · exact withTx_rx s ch ch t

@[simp] theorem settle_not_owed (t : Transmitter) (h : t.tickOwed = false) : t.settle = t := by
  simp [Transmitter.settle, h]

@[simp] theorem settle_lines_not_owed (d : DispatchUnit) (h : d.tickOwed = false) : d.settle = d := by
  simp [DispatchUnit.settle, h]

end Sys2Proof.Machine
end

