-- ==== Sys2Proof/Laws/Memory.lean ====
section
/-! SUPPORT. The laws of the store: a read after a write, and the canonical form that every operation keeps. -/

namespace Sys2Proof.Machine

theorem Memory.read_write_same (m : List Host.Cell) (i : Nat) (v : Byte) :
    Memory.read (Memory.write m i v) i = some v := by
  induction m with
  | nil => simp [Memory.write, Memory.read]
  | cons c rest ih =>
    obtain ⟨a, b⟩ := c
    unfold Memory.write
    split
    · simp [Memory.read]
    · split
      · simp [Memory.read]
      · rename_i h
        simp [Memory.read, h, ih]

theorem Memory.read_write_other (m : List Host.Cell) (i j : Nat) (v : Byte) (h : j ≠ i) :
    Memory.read (Memory.write m i v) j = Memory.read m j := by
  induction m with
  | nil => simp [Memory.write, Memory.read, h]
  | cons c rest ih =>
    obtain ⟨a, b⟩ := c
    unfold Memory.write
    split
    · simp [Memory.read, h]
    · split
      · rename_i hi
        subst hi
        simp [Memory.read, h]
      · simp [Memory.read, ih]

/-- Where the entries of a written store come from. -/
theorem Memory.mem_write (m : List Host.Cell) (i : Nat) (v : Byte) (c : Host.Cell) (h : c ∈ Memory.write m i v) :
    c = (i, v) ∨ c ∈ m := by
  induction m with
  | nil => simpa [Memory.write] using h
  | cons d rest ih =>
    obtain ⟨a, b⟩ := d
    unfold Memory.write at h
    split at h
    · simpa using h
    · split at h
      · rcases List.mem_cons.1 h with h | h
        · exact .inl h
        · exact .inr (List.mem_cons_of_mem _ h)
      · rcases List.mem_cons.1 h with h | h
        · exact .inr (h ▸ List.mem_cons_self)
        · rcases ih h with h | h
          · exact .inl h
          · exact .inr (List.mem_cons_of_mem _ h)

/-- A write within the store keeps the canonical form. -/
theorem Memory.write_wf (m : List Host.Cell) (i : Nat) (v : Byte) (hi : i < Config.storeSize) (h : Memory.wf m) :
    Memory.wf (Memory.write m i v) := by
  constructor
  · obtain ⟨h, -⟩ := h
    induction m with
    | nil => simp [Memory.write]
    | cons d rest ih =>
      obtain ⟨a, b⟩ := d
      rw [List.pairwise_cons] at h
      unfold Memory.write
      split
      · rename_i hlt
        refine List.pairwise_cons.2 ⟨fun c hc => ?_, List.pairwise_cons.2 h⟩
        rcases List.mem_cons.1 hc with rfl | hc
        · exact hlt
        · exact Nat.lt_trans hlt (h.1 c hc)
      · split
        · rename_i heq
          exact List.pairwise_cons.2 ⟨fun c hc => heq ▸ h.1 c hc, h.2⟩
        · rename_i hlt hne
          refine List.pairwise_cons.2 ⟨fun c hc => ?_, ih h.2⟩
          rcases Memory.mem_write rest i v c hc with rfl | hc
          · show a < i
            omega
          · exact h.1 c hc
  · intro c hc
    rcases Memory.mem_write m i v c hc with rfl | hc
    · exact hi
    · exact h.2 c hc

/-- The byte the store holds at the offset written. -/
theorem storeByte_write_same (mm : MessageMemory) (i : Nat) (v : Byte) :
    storeByte { mm with store := Memory.write mm.store i v } i = v := by
  simp [storeByte, Memory.read_write_same]

/-- The bytes the store holds at every other offset. -/
theorem storeByte_write_other (mm : MessageMemory) (i j : Nat) (v : Byte) (h : j ≠ i) :
    storeByte { mm with store := Memory.write mm.store i v } j = storeByte mm j := by
  simp [storeByte, Memory.read_write_other _ _ _ _ h]

@[simp] theorem claimMessage_store (m : Fin 32) (mm : MessageMemory) : (claimMessage m mm).store = mm.store := rfl

@[simp] theorem releaseMessage_store (m : Fin 32) (mm : MessageMemory) : (releaseMessage m mm).store = mm.store := rfl

@[simp] theorem claimMessage_byte (m : Fin 32) (mm : MessageMemory) (i : Nat) :
    storeByte (claimMessage m mm) i = storeByte mm i := rfl

@[simp] theorem releaseMessage_byte (m : Fin 32) (mm : MessageMemory) (i : Nat) :
    storeByte (releaseMessage m mm) i = storeByte mm i := rfl

@[simp] theorem kept_store (mm : MessageMemory) : mm.kept.store = mm.store := rfl

@[simp] theorem kept_epoch (mm : MessageMemory) : mm.kept.epoch = mm.epoch := rfl

@[simp] theorem kept_byte (mm : MessageMemory) (i : Nat) : storeByte mm.kept i = storeByte mm i := rfl

@[simp] theorem lost_store (n : Nat) : (MessageMemory.lost n).store = [] := rfl

@[simp] theorem post_store (body : NoticeBody) (s : State) : (post body s).mm.store = s.mm.store := by simp

@[simp] theorem requestLeaves_store (r : Request) (body : Fin 32 → Source → NoticeBody) (s : State) :
    (requestLeaves r body s).mm.store = s.mm.store := by
  unfold requestLeaves
  split <;> simp

@[simp] theorem headLeaves_store (ch : Channel) (body : Fin 32 → Source → NoticeBody) (s : State) :
    (headLeaves ch body s).mm.store = s.mm.store := by
  unfold headLeaves
  split <;> simp

/-- A write to MM_DATA keeps the canonical form. -/
theorem writeData_wf (byte : Byte) (s : State) (h : Memory.wf s.mm.store) : Memory.wf (writeData byte s).mm.store := by
  unfold writeData
  simp only
  split
  · exact h
  · exact Memory.write_wf _ _ _ s.mm.pointer.isLt h

theorem empty_store_wf : Memory.wf [] := ⟨List.Pairwise.nil, fun _ h => absurd h List.not_mem_nil⟩

end Sys2Proof.Machine
end

