-- ==== Sys2Proof/Laws/Ops.lean ====
section
/-! SUPPORT. For each shared operation, once, everything it can do. -/

namespace Sys2Proof.Machine

/-! ## The bus and the command port -/

theorem whenMain_up (s : State) (f : State → State) (h : s.power.vmainGood = true ∧ s.power.resetHigh = true) :
    whenMain s f = f s := by
  simp [whenMain, State.mainAlive, h]

theorem whenMain_down (s : State) (f : State → State) (h : ¬ (s.power.vmainGood = true ∧ s.power.resetHigh = true)) :
    whenMain s f = s := by
  have : s.mainAlive = false := by simpa [State.mainAlive] using h
  simp [whenMain, this]

/-- The bus takes a cycle where it is ready (R183). -/
theorem busTaken_iff (s : State) :
    s.busTaken = true ↔ s.power.vmainGood = true ∧ s.power.resetHigh = true ∧ s.power.skipCycles = 0 := by
  simp [State.busTaken, State.mainAlive, and_assoc]

/-- A bus cycle does one of three things. -/
theorem onBus_cases (s : State) (f : State → State) :
    (s.mainAlive = false ∧ onBus s f = s) ∨
    (∃ n, s.mainAlive = true ∧ s.power.skipCycles = n + 1 ∧
      onBus s f = { s with power := { s.power with skipCycles := n } }) ∨
    (s.mainAlive = true ∧ s.power.skipCycles = 0 ∧ onBus s f = f s) := by
  unfold onBus State.busTaken
  cases h : s.mainAlive
  · simp
  · cases h' : s.power.skipCycles <;> simp

theorem onBus_ready (s : State) (f : State → State)
    (h : s.power.vmainGood = true ∧ s.power.resetHigh = true ∧ s.power.skipCycles = 0) : onBus s f = f s := by
  simp [onBus, (busTaken_iff s).2 h]

theorem portBusy_iff (s : State) : s.portBusy = true ↔ s.au.inFlight ≠ none := by
  simp [State.portBusy, Option.isSome_iff_ne_none]

/-- An accepted command (R187). -/
theorem offer_idle (s : State) (f : State → State)
    (h : s.power.vmainGood = true ∧ s.power.resetHigh = true ∧ s.power.skipCycles = 0) (hi : s.au.inFlight = none) :
    offer s f = f { s with biu := { s.biu with cmdDone := false } } := by
  simp [offer, onBus_ready _ _ h, State.portBusy, hi]

/-- A command refused by the port (R189). -/
theorem offer_busy (s : State) (f : State → State)
    (h : s.power.vmainGood = true ∧ s.power.resetHigh = true ∧ s.power.skipCycles = 0)
    (hb : s.au.inFlight.isSome = true) : offer s f = setFault .cmdOverrun s := by
  simp [offer, onBus_ready _ _ h, State.portBusy, hb]

/-- A command that completes at once (R187, R188). -/
theorem atOnce_idle (s : State) (f : State → State × ResultCode)
    (h : s.power.vmainGood = true ∧ s.power.resetHigh = true ∧ s.power.skipCycles = 0) (hi : s.au.inFlight = none) :
    atOnce s f = complete (f { s with biu := { s.biu with cmdDone := false } }) := offer_idle s _ h hi

/-! ## Notices -/

/-- A notice is kept at the tail, or lost (R167). -/
theorem post_niu (body : NoticeBody) (s : State) :
    (s.niu.queue.length < Config.noticeDepth ∧
      (post body s).niu = { s.niu with queue := s.niu.queue ++ [{ body := body, stamp := s.now }] }) ∨
    (Config.noticeDepth ≤ s.niu.queue.length ∧
      (post body s).niu = { s.niu with
        lost := min (s.niu.lost + 1) 255, faults := s.niu.faults ||| FaultFlag.noticeLost.mask }) := by
  unfold post
  split
  · exact .inl ⟨by assumption, rfl⟩
  · exact .inr ⟨by omega, rfl⟩

/-- The notice queue never passes its depth, and the lost count never passes 255. -/
theorem post_bounds (body : NoticeBody) (s : State) (h : s.niu.queue.length ≤ Config.noticeDepth) (hl : s.niu.lost ≤ 255) :
    (post body s).niu.queue.length ≤ Config.noticeDepth ∧ (post body s).niu.lost ≤ 255 ∧
      (post body s).niu.threshold = s.niu.threshold := by
  rcases post_niu body s with ⟨h', e⟩ | ⟨h', e⟩ <;> rw [e]
  · refine ⟨?_, hl, rfl⟩
    simp only [List.length_append, List.length_cons, List.length_nil]
    omega
  · exact ⟨h, Nat.min_le_right _ _, rfl⟩

/-! ## The due list -/

theorem mem_dueInsert (slots : Vector Slot 64) (i j : Fin 64) (l : List (Fin 64)) :
    j ∈ dueInsert slots i l ↔ j = i ∨ j ∈ l := by
  induction l with
  | nil => simp [dueInsert]
  | cons k rest ih =>
    unfold dueInsert
    split
    · simp
    · simp [ih]
      tauto

/-- Without the slot inserted, the list is as it was. -/
theorem filter_dueInsert (slots : Vector Slot 64) (i : Fin 64) (l : List (Fin 64)) (h : i ∉ l) :
    ((dueInsert slots i l).filter fun j => j != i) = l := by
  have hf : ∀ l : List (Fin 64), i ∉ l → (l.filter fun j => j != i) = l := fun l hl =>
    List.filter_eq_self.2 fun a ha => by
      simp only [bne_iff_ne]
      rintro rfl
      exact hl ha
  induction l with
  | nil => simp [dueInsert]
  | cons k rest ih =>
    rw [List.mem_cons, not_or] at h
    unfold dueInsert
    split
    · rw [List.filter_cons_of_neg (by simp)]
      exact hf _ (by simpa using h)
    · rw [List.filter_cons_of_pos (by simpa using Ne.symm h.1), ih h.2]

theorem dueBefore_iff (slots : Vector Slot 64) (i j : Fin 64) :
    dueBefore slots i j = true ↔
      slots[i].entry.due < slots[j].entry.due ∨ (slots[i].entry.due = slots[j].entry.due ∧ i < j) := by
  simp [dueBefore]

/-- The order of the list is kept by an insertion (R39, R40). -/
theorem dueInsert_pairwise (slots : Vector Slot 64) (i : Fin 64) (l : List (Fin 64)) (h : i ∉ l)
    (hl : l.Pairwise fun a b => dueBefore slots a b = true) :
    (dueInsert slots i l).Pairwise fun a b => dueBefore slots a b = true := by
  induction l with
  | nil => simp [dueInsert]
  | cons k rest ih =>
    rw [List.mem_cons, not_or] at h
    rw [List.pairwise_cons] at hl
    unfold dueInsert
    split
    · rename_i hik
      refine List.pairwise_cons.2 ⟨fun b hb => ?_, List.pairwise_cons.2 hl⟩
      rcases List.mem_cons.1 hb with rfl | hb
      · exact hik
      · have := hl.1 b hb
        rw [dueBefore_iff] at hik this ⊢
        omega
    · rename_i hik
      refine List.pairwise_cons.2 ⟨fun b hb => ?_, ih h.2 hl.2⟩
      rcases (mem_dueInsert slots i b rest).1 hb with rfl | hb
      · rw [dueBefore_iff] at hik ⊢
        have : k ≠ b := fun e => h.1 e.symm
        omega
      · exact hl.1 b hb

/-! ## Arming -/

@[simp] theorem armSlot_slots (i : Fin 64) (due : Nat) (au : Agenda) :
    (armSlot i due au).slots = au.slots.set i { state := .armed, entry := { au.slots[i].entry with due := due } } := rfl

@[simp] theorem armSlot_window (i : Fin 64) (due : Nat) (au : Agenda) : (armSlot i due au).window = au.window := rfl

@[simp] theorem armSlot_inFlight (i : Fin 64) (due : Nat) (au : Agenda) : (armSlot i due au).inFlight = au.inFlight := rfl

@[simp] theorem armSlot_staging (i : Fin 64) (due : Nat) (au : Agenda) : (armSlot i due au).staging = au.staging := rfl

theorem mem_armSlot (i j : Fin 64) (due : Nat) (au : Agenda) :
    j ∈ (armSlot i due au).dueList ↔ j = i ∨ j ∈ au.dueList := mem_dueInsert _ i j _

/-! ## Transmit queues -/

theorem startHead_queue (mm : MessageMemory) (lead : Bool) (t : Transmitter) :
    (Transmitter.startHead mm lead t).queue = t.queue := by
  unfold Transmitter.startHead
  split <;> simp_all

/-- After a start the transmitter is IDLE exactly with an empty queue (R103). -/
theorem startHead_idle (mm : MessageMemory) (lead : Bool) (t : Transmitter) :
    (Transmitter.startHead mm lead t).state = .idle ↔ t.queue = [] := by
  unfold Transmitter.startHead
  split <;> simp_all

/-- A request that joins stands at the tail of its queue. -/
theorem joinQueue_queue (ch : Channel) (r : Request) (s : State) :
    ((joinQueue ch r s).tx ch).queue = (s.tx ch).queue ++ [r] := by
  unfold joinQueue
  simp only
  split
  · rename_i h
    simp [startHead_queue, List.isEmpty_iff.1 h]
  · simp

/-- What begins on a line follows the bits it carries, or ends them. -/
theorem goesOn_carries (h : LoopHeard) (c : SerialChannel) (since : Nat) (ha : h.after = .carries since) :
    (c.tx.out = .mark ∧ h.goesOn c = { h with after := .rest }) ∨
    (c.tx.out ≠ .mark ∧ h.goesOn c = { h with bits := h.bits ++ c.lineBits, after := .carries h.bits.length }) := by
  unfold LoopHeard.goesOn
  simp only [ha]
  split <;> simp_all

/-- Once the line has rested, no bit is known to follow. -/
theorem goesOn_rested (h : LoopHeard) (c : SerialChannel) (ha : ∀ since, h.after ≠ .carries since) :
    (h.goesOn c).bits = h.bits ∧ (h.goesOn c).divisor = h.divisor ∧ ∀ since, (h.goesOn c).after ≠ .carries since := by
  unfold LoopHeard.goesOn
  split
  · rename_i e
    exact absurd e (ha _)
  all_goals split <;> simp_all

/-- Hearing the line go on changes nothing of a receiver but what it has heard. -/
theorem hearsOn_frame (c next : SerialChannel) (r : Receiver) :
    r.hearsOn c next = { r with
      lowWatch := (r.hearsOn c next).lowWatch, looped := (r.hearsOn c next).looped,
      place := r.place.after c (r.state == .inChar) } := rfl

/-- The low watch stays, with its stamp and kind. -/
theorem hearsOn_lowWatch (c next : SerialChannel) (r : Receiver) :
    (r.hearsOn c next).lowWatch.isSome = r.lowWatch.isSome ∧
      (r.hearsOn c next).lowWatch.map LowWatch.byStartBit = r.lowWatch.map LowWatch.byStartBit ∧
      (r.hearsOn c next).lowWatch.map LowWatch.stamp = r.lowWatch.map LowWatch.stamp := by
  cases h : r.lowWatch <;> simp [Receiver.hearsOn, h]

theorem putOnLine_rx_other (s : State) (ch : Channel) (t : Transmitter) :
    (putOnLine ch t s).rx (otherChannel ch) =
      if s.ser.loop then (s.rx (otherChannel ch)).hearsOn (s.chan ch) { s.chan ch with tx := t } else s.rx (otherChannel ch) := by
  unfold putOnLine
  split <;> cases ch <;> rfl

/-! ## The place of a receiver on the looped line -/

/-- A fall is heard only with the cross-loop on, where the line falls, where nothing past it has been heard, and where the receiver
has nothing to hear before it. -/
theorem loopHeard_eq_some (s : State) (ch : Channel) (k : Nat) (h : LoopHeard) :
    loopHeard s ch k = some h ↔
      (s.ser.loop = true ∧ (s.rx ch).place.fallsAt (s.chan (otherChannel ch)).lineBits k = true ∧
        (s.rx ch).place.heard ≤ k * lineUnit s ch ∧ fallIsNext s ch k = true) ∧
      h = { bits := (s.chan (otherChannel ch)).lineBits.drop k, divisor := (s.chan (otherChannel ch)).config.divisor,
            after := .carries 0 } := by
  unfold loopHeard
  simp only
  split
  · rename_i hc
    simp [hc, eq_comm]
  · rename_i hc
    simp [hc]

/-- What lies before the place is not heard again. -/
theorem loopHeard_past (s : State) (ch : Channel) (k : Nat) (h : k * lineUnit s ch < (s.rx ch).place.heard) :
    loopHeard s ch k = none := by
  rw [Option.eq_none_iff_forall_ne_some]
  intro x hx
  have := ((loopHeard_eq_some s ch k x).1 hx).1.2.2.1
  omega

/-- A receiver that knows its place hears the falls of the line in their order: the one it hears is the next one. -/
theorem loopHeard_next (s : State) (ch : Channel) (k : Nat) (h : LoopHeard) (hk : loopHeard s ch k = some h)
    (ht : (s.rx ch).place.tracked = true) : nextFall s ch = some k := by
  have hn := ((loopHeard_eq_some s ch k h).1 hk).1.2.2.2
  have ht' : (s.chan ch).rx.place.tracked = true := ht
  unfold fallIsNext at hn
  simp only [ht', Bool.and_eq_true] at hn
  simpa using hn.1

/-- No fall of the line that is left to hear lies before the next one. -/
theorem nextFall_le (s : State) (ch : Channel) (i k : Nat) (hk : nextFall s ch = some k)
    (hf : (s.rx ch).place.fallsAt (s.chan (otherChannel ch)).lineBits i = true)
    (hh : (s.rx ch).place.heard ≤ i * lineUnit s ch) : k ≤ i := by
  unfold nextFall at hk
  by_contra hlt
  have := (List.find?_range_eq_some.1 hk).2.2 i (by omega)
  simp [hf, hh] at this

/-- A sample takes the place no way back, and keeps what came before the line's present bits. -/
theorem placeAtSample_heard (s : State) (ch : Channel) (halves : Nat) :
    (s.rx ch).place.heard ≤ (placeAtSample s ch halves).heard ∧
      placeAtSample s ch halves = { (s.rx ch).place with
        heard := (placeAtSample s ch halves).heard, counted := (placeAtSample s ch halves).counted,
        tracked := (placeAtSample s ch halves).tracked } := by
  unfold placeAtSample
  simp only
  split
  · exact ⟨Nat.le_max_left _ _, rfl⟩
  · exact ⟨Nat.le_refl _, rfl⟩

/-- With the cross-loop off the place stays. -/
theorem placeAtSample_off (s : State) (ch : Channel) (halves : Nat) (h : s.ser.loop = false) :
    placeAtSample s ch halves = (s.rx ch).place := by
  simp [placeAtSample, h]

/-- The completion of a character takes the place where its last sample does. -/
theorem placeAtCharacter_heard (s : State) (ch : Channel) (stopBit : Bool) :
    (placeAtCharacter s ch stopBit).heard = (placeAtSample s ch ((s.chan ch).config.completeAt stopBit)).heard := by
  unfold placeAtCharacter
  simp only
  split
  · split <;> rfl
  · rfl

/-- A rise takes the place no way back, and comes only where the input can be at 1. -/
theorem placeAtRise_heard (s : State) (ch : Channel) (p : LinePlace) (h : placeAtRise s ch = some p) :
    inputCanBe s ch true = true ∧ (s.rx ch).place.heard ≤ p.heard ∧
      p = { (s.rx ch).place with heard := p.heard, whole := p.whole, tracked := p.tracked } := by
  unfold placeAtRise at h
  simp only at h
  split at h
  · rename_i hl
    cases h
    exact ⟨by simp_all [inputCanBe], Nat.le_refl _, rfl⟩
  · split at h
    · cases h
    · rename_i hc
      refine ⟨by simpa using hc, ?_⟩
      split at h
      · split at h
        · cases h
        · obtain ⟨j, -, rfl⟩ := Option.map_eq_some_iff.1 h
          exact ⟨Nat.le_max_left _ _, rfl⟩
      · split at h
        · cases h
          exact ⟨Nat.le_refl _, rfl⟩
        · obtain ⟨j, -, rfl⟩ := Option.map_eq_some_iff.1 h
          exact ⟨Nat.le_max_left _ _, rfl⟩

/-- On a pin the input rises at any time. -/
theorem placeAtRise_off (s : State) (ch : Channel) (h : s.ser.loop = false) : placeAtRise s ch = some (s.rx ch).place := by
  simp [placeAtRise, h]

/-- A gap's end takes the place no way back. -/
theorem placeAtGap_heard (s : State) (ch : Channel) (p : LinePlace) (h : placeAtGap s ch = some p) :
    (s.rx ch).place.heard ≤ p.heard ∧ p = { (s.rx ch).place with heard := p.heard } := by
  unfold placeAtGap at h
  simp only at h
  split at h
  · cases h
  · split at h
    · cases h
      exact ⟨Nat.le_refl _, rfl⟩
    · obtain ⟨j, -, rfl⟩ := Option.map_eq_some_iff.1 h
      exact ⟨Nat.le_max_left _ _, rfl⟩

/-- Where nothing bounds the mark that a receiver can have heard, its gap can end. -/
theorem placeAtGap_unbounded (s : State) (ch : Channel) (h : markHeard s ch 0 = none) (hc : canBeAtMark s ch = true) :
    placeAtGap s ch = some (s.rx ch).place := by
  simp [placeAtGap, h, hc]

/-- A gap count never falls. -/
theorem gapRaised_ge (s : State) (ch : Channel) (bitTimes moment : Nat) :
    (s.rx ch).gap ≤ gapRaised s ch bitTimes moment := Nat.le_max_left _ _

/-- A bit time of mark takes the place no way back, and not past a fall that is left to hear. -/
theorem placeAtMark_heard (s : State) (ch : Channel) (p : LinePlace) (h : placeAtMark s ch = some p) :
    (s.rx ch).place.heard ≤ p.heard ∧ p = { (s.rx ch).place with heard := p.heard } ∧
      ((s.rx ch).place.tracked = true → ∀ k, nextFall s ch = some k → p.heard ≤ max (s.rx ch).place.heard (k * lineUnit s ch)) := by
  unfold placeAtMark at h
  simp only at h
  split at h
  · cases h
    exact ⟨Nat.le_refl _, rfl, fun _ _ _ => Nat.le_max_left _ _⟩
  · split at h
    · cases h
    · obtain ⟨j, hj, rfl⟩ := Option.map_eq_some_iff.1 h
      refine ⟨Nat.le_max_left _ _, rfl, fun ht k hk => ?_⟩
      have := List.find?_some hj
      rw [Bool.and_eq_true] at this
      replace this := this.2
      simp only [comesTo, ht, hk, Bool.not_true, Bool.false_or, Option.all_some, decide_eq_true_eq] at this
      exact max_le_max (Nat.le_refl _) (Nat.mul_le_mul (by omega) (Nat.le_refl _))

/-- On a pin, and on a line at rest, there is a bit time of mark at any time. -/
theorem placeAtMark_rest (s : State) (ch : Channel)
    (h : s.ser.loop = false ∨ (s.tx (otherChannel ch)).out = .mark) : placeAtMark s ch = some (s.rx ch).place := by
  have : (!s.ser.loop || (s.chan (otherChannel ch)).tx.out == .mark) = true := by
    rcases h with h | h
    · simp [h]
    · have : (s.chan (otherChannel ch)).tx.out = .mark := h
      simp [this]
  simp [placeAtMark, this]

/-! ## Ticks on their way -/

/-- After this no block owes a tick, unless one may be on its way still. -/
theorem bringTicks_cases (s : State) :
    (s.tickMayWait = true ∧ bringTicks s = s) ∨
    (s.tickMayWait = false ∧ (bringTicks s).du = s.du.settle ∧ (∀ ch, (bringTicks s).tx ch = (s.tx ch).settle) ∧
      ∀ ch, (bringTicks s).rx ch = s.rx ch ∧ ((bringTicks s).chan ch).config = (s.chan ch).config) := by
  unfold bringTicks
  cases h : s.tickMayWait
  · refine .inr ⟨rfl, rfl, fun ch => ?_, fun ch => ?_⟩ <;> cases ch <;> simp only [if_false, Bool.false_eq_true] <;>
      first | rfl | exact ⟨rfl, rfl⟩
  · exact .inl ⟨rfl, rfl⟩

theorem settle_tx_tickOwed (t : Transmitter) : t.settle.tickOwed = false := by
  unfold Transmitter.settle
  split <;> simp_all

/-- Where every tick has been taken there is nothing to bring. -/
theorem bringTicks_taken (s : State) (hd : s.du.tickOwed = false) (ht : ∀ ch, (s.tx ch).tickOwed = false) :
    bringTicks s = s := by
  unfold bringTicks
  split
  · rfl
  · rw [settle_lines_not_owed _ hd, settle_not_owed _ (ht .a), settle_not_owed _ (ht .b)]
    rfl

theorem takeTick_queue (t : Transmitter) : t.takeTick.queue = t.queue ∧ t.takeTick.state = t.state := by
  unfold Transmitter.takeTick
  split <;> simp

/-! ## Capture records -/

/-- The close of a record puts it at the tail of the queue with the rules it matched, and changes nothing else of the Capture
Unit (R139). -/
theorem closeRecord_cu (r : CaptureRecord) (s : State) :
    (closeRecord r s).cu =
      { s.cu with queue := s.cu.queue ++ [{ r with matched := allRules.filter (ruleMatches s r) }] } := by
  have h := judgeRules_cu r s [] (allRules.filter (ruleMatches s r))
  simp only [closeRecord, h]

end Sys2Proof.Machine
end

