-- ==== Sys2Proof/Laws/Said.lean ====
section
/-! SUPPORT. What the shared operations do, in the terms that statements are said in. -/

namespace Sys2Proof.Machine

/-! ## Notices (R167) -/

@[simp] theorem Notices.took_nil (n : Notices) (stamp : Stamp) : n.took stamp [] = n := by simp [Notices.took]

/-- Notices that reach the unit one after the other at one time are taken as those of one list. -/
theorem Notices.took_took (n : Notices) (stamp : Stamp) (as bs : List NoticeBody) :
    (n.took stamp as).took stamp bs = n.took stamp (as ++ bs) := by
  simp only [Notices.took, List.length_append, List.length_map, List.length_take, List.take_append, List.map_append,
    List.append_assoc]
  have hf : 32 - (n.queue.length + min (32 - n.queue.length) as.length) = 32 - n.queue.length - as.length := by omega
  have hl : as.length + bs.length - (32 - n.queue.length) =
      (as.length - (32 - n.queue.length)) + (bs.length - (32 - n.queue.length - as.length)) := by omega
  rw [hf, hl]
  by_cases ha : as.length - (32 - n.queue.length) = 0 <;>
    by_cases hb : bs.length - (32 - n.queue.length - as.length) = 0 <;>
    (simp [ha, hb, BitVec.or_assoc]; try omega)

/-- A posted notice is taken, and nothing else changes (R167). -/
theorem post_eq_took (body : NoticeBody) (s : State) :
    post body s = { s with niu := s.niu.took s.present [body] } := by
  unfold post Notices.took
  by_cases h : s.niu.queue.length < 32
  · have : 1 - (32 - s.niu.queue.length) = 0 := by omega
    have : List.take (32 - s.niu.queue.length) [body] = [body] := List.take_of_length_le (by simp; omega)
    simp_all [Config.noticeDepth, State.now]
  · have : 32 - s.niu.queue.length = 0 := by omega
    simp_all [Config.noticeDepth, setFault, FaultFlag.mask, FaultFlag.bit]

/-- A notice that is asked for is taken. -/
theorem postIf_eq_took (wanted : Bool) (body : NoticeBody) (s : State) :
    postIf wanted body s = { s with niu := s.niu.took s.present (if wanted then [body] else []) } := by
  cases wanted
  · simp [postIf]
  · simp [postIf, post_eq_took]

@[simp] theorem Notices.refusing_false (n : Notices) : n.refusing false = n := rfl

/-- The queue and the lost count do not depend on what was refused. -/
theorem Notices.took_refusing (n : Notices) (stamp : Stamp) (bodies : List NoticeBody) (refused : Bool) :
    (n.took stamp bodies).refusing refused = (n.refusing refused).took stamp bodies := by
  cases refused
  · rfl
  · simp only [Notices.took, Notices.refusing]
    by_cases h : bodies.length - (32 - n.queue.length) = 0
    · simp [h]
    · have : n.faults ||| 2#6 ||| 32#6 = n.faults ||| 32#6 ||| 2#6 := by rw [BitVec.or_assoc, BitVec.or_assoc]; rfl
      simpa [h] using this

theorem Notices.refusing_refusing (n : Notices) (a b : Bool) : (n.refusing a).refusing b = n.refusing (a || b) := by
  cases a <;> cases b <;> simp [Notices.refusing, BitVec.or_assoc]

/-! ## Transmitters (R98, R103) -/

theorem startHead_hasBegun (mm : MessageMemory) (lead : Bool) (t : Transmitter) :
    (Transmitter.startHead mm lead t).hasBegun mm lead := by
  unfold Transmitter.startHead
  cases h : t.queue with
  | nil => simp [Transmitter.hasBegun]
  | cons r rest => cases r <;> simp [Transmitter.hasBegun, messageByte]

/-! ## Ticks (R1, R71, R72) -/

/-- Oscillator periods that stop short of the pass from 7 to 0 change the phase alone. -/
theorem passPeriods_short (k : Nat) (ev : BitVec 4) (order : TickOrder) (s : State) (h : s.tb.phase + k < 8) :
    passPeriods k ev order s =
      if s.power.backupHeld then { s with tb := { s.tb with phase := s.tb.phase + k } } else s := by
  simp [passPeriods, h]

/-- Those that reach it issue a tick. -/
theorem passPeriods_tick (k : Nat) (ev : BitVec 4) (order : TickOrder) (s : State) (h : 8 ≤ s.tb.phase + k)
    (hb : s.power.backupHeld = true) : passPeriods k ev order s = issueTick ev order s := by
  simp [passPeriods, hb, Nat.not_lt.2 h]

/-- A line at a tick: untouched, at the end of its pulse, or counted down. -/
theorem Line.takeTick_cases (l : Line) :
    (l.pending = none ∧ l.takeTick = l) ∨
    (∃ r, l.pending = some r ∧ r.remaining ≤ 1 ∧ l.takeTick = { l with level := r.level, pending := none }) ∨
    (∃ r, l.pending = some r ∧ 2 ≤ r.remaining ∧
      l.takeTick = { l with pending := some { r with remaining := r.remaining - 1 } }) := by
  unfold Line.takeTick
  cases h : l.pending with
  | none => simp
  | some r =>
    by_cases h1 : r.remaining ≤ 1
    · simp [h1]
    · simp [h1]
      omega

@[simp] theorem settle_tickOwed (d : DispatchUnit) : d.settle.tickOwed = false := by
  unfold DispatchUnit.settle
  cases h : d.tickOwed <;> simp [h]

/-! ## Trigger evaluation (R155 to R160) -/

/-- A miss sets the rule's miss flag and ACTION_REFUSED and posts its notice. -/
theorem triggerMiss_eq (k : Fin 8) (slot : Fin 64) (reason : MissReason) (current : Bool) (s : State) :
    triggerMiss k slot reason current s =
      { s with
        tu := if current then { s.tu with rules := s.tu.rules.set k { s.tu.rules[k] with miss := true } } else s.tu
        niu := (s.niu.refusing true).took s.present [.triggerMiss k slot reason] } := by
  cases current <;> simp [triggerMiss, post_eq_took, setFault, Notices.refusing, FaultFlag.mask, FaultFlag.bit]

/-- What the matching rules of a record ask for at its close (R156, R157). -/
theorem judgeRule_eq (r : CaptureRecord) (s : State) (acc : List ArmRequest) (k : Fin 8) :
    judgeRule r (s, acc) k =
      match s.missAtClose r k with
      | some reason => (triggerMiss k s.tu.rules[k].target reason true s, acc)
      | none => (s, acc ++ [{ rule := k, slot := s.tu.rules[k].target, due := r.stamp.count + s.tu.rules[k].delay,
                              current := true }]) := by
  simp only [judgeRule, State.missAtClose]
  split
  · rfl
  · split <;> rfl

/-- Whether and why a rule misses does not depend on the misses before it. -/
theorem missAtClose_triggerMiss (r : CaptureRecord) (s : State) (k j : Fin 8) (slot : Fin 64) (reason : MissReason) (c : Bool) :
    (triggerMiss k slot reason c s).missAtClose r j = s.missAtClose r j := by
  rw [triggerMiss_eq]
  cases c
  · rfl
  · simp only [State.missAtClose, if_true]
    by_cases h : k = j
    · subst h
      simp
    · have : k.val ≠ j.val := fun e => h (Fin.ext e)
      simp [this]

/-- The trigger evaluation at a close, over any list of rules: the requests it makes, the miss flags it sets and the notices it
posts (R156 to R160). -/
theorem judgeRules_said (r : CaptureRecord) (ks : List (Fin 8)) (s : State) (acc : List ArmRequest)
    (out : State × List ArmRequest) (misses : List NoticeBody) (h : ks.foldl (judgeRule r) (s, acc) = out)
    (hm : misses = ks.filterMap fun k =>
      (s.missAtClose r k).map fun reason => .triggerMiss k s.tu.rules[k].target reason) :
    out.2 = acc ++ (ks.filter fun k => (s.missAtClose r k).isNone).map (fun k =>
      { rule := k, slot := s.tu.rules[k].target, due := r.stamp.count + s.tu.rules[k].delay, current := true }) ∧
    out.1 = { s with tu := { s.tu with rules := out.1.tu.rules },
                     niu := (s.niu.refusing (decide (misses ≠ []))).took s.present misses } ∧
    ∀ j : Fin 8, out.1.tu.rules[j] = { (s.tu.rules[j] : Rule) with
      miss := (s.tu.rules[j] : Rule).miss || (decide (j ∈ ks) && (s.missAtClose r j).isSome) } := by
  subst hm
  induction ks generalizing s acc with
  | nil => subst h; simp
  | cons k ks ih =>
    rw [List.foldl_cons, judgeRule_eq] at h
    cases hm : s.missAtClose r k with
    | none =>
      rw [hm] at h
      obtain ⟨h1, h2, h3⟩ := ih s _ h
      refine ⟨by simp [h1, hm], by simpa [hm] using h2, fun j => ?_⟩
      rw [h3 j]
      by_cases e : j = k
      · subst e
        simp [hm]
      · simp [e]
    | some reason =>
      rw [hm] at h
      obtain ⟨h1, h2, h3⟩ := ih _ _ h
      have ht : ∀ j : Fin 8, (triggerMiss k s.tu.rules[k].target reason true s).tu.rules[j] =
          { (s.tu.rules[j] : Rule) with miss := (s.tu.rules[j] : Rule).miss || decide (j = k) } := fun j => by
        rw [triggerMiss_eq]
        by_cases e : j = k
        · subst e
          simp
        · have : k.val ≠ j.val := fun e' => e (Fin.ext e'.symm)
          simp [e, this]
      simp only [missAtClose_triggerMiss, ht] at h1 h2 h3
      refine ⟨by simp [h1, hm], ?_, fun j => ?_⟩
      · rw [h2]
        simp [triggerMiss_eq, hm, Notices.took_refusing, Notices.took_took, Notices.refusing_refusing]
      · rw [h3 j]
        by_cases e : j = k
        · subst e
          simp [hm]
        · simp [e]

/-- The rules that match a record, in ascending order. -/
theorem matched_said (s : State) (r : CaptureRecord) :
    (allRules.filter (ruleMatches s r)).Pairwise (fun j k => j < k) ∧
      ∀ k, k ∈ allRules.filter (ruleMatches s r) ↔ ruleMatches s r k = true := by
  refine ⟨List.Pairwise.filter _ (by decide), fun k => ?_⟩
  have : ∀ k : Fin 8, k ∈ allRules := by decide
  simp [List.mem_filter, this k]

/-- The close of a record is what R139, R140 and R155 to R160 say of it. -/
theorem closeRecord_closed (r : CaptureRecord) (s : State) : s.recordClosed (closeRecord r s) r := by
  refine ⟨allRules.filter (ruleMatches s r), (matched_said s r).1, (matched_said s r).2, ?_, ?_⟩
  · rw [closeRecord_cu]
  · intro requests misses hq hm
    obtain ⟨h1, h2, h3⟩ := judgeRules_said r (allRules.filter (ruleMatches s r)) s [] _ misses rfl hm
    rw [List.nil_append, ← hq] at h1
    have ht := congrArg State.tu h2
    have hn := congrArg State.niu h2
    simp only at ht hn
    simp only [closeRecord]
    rw [h1]
    refine ⟨?_, h3, hn⟩
    rw [ht]
    cases requests <;> simp

/-! ## Pages (R194, R196) -/

/-- A page shows a table of fields where its bytes, one after the other from location 0x10 on, are the table's. -/
theorem pageShows_of_bytes (s : State) (fields : List (Nat × Nat × Nat))
    (h : ∀ i : Fin 48, s.pageBytes.getD i 0 = fieldByte fields (16 + i)) : s.pageShows fields := by
  intro loc hl
  have hlt : loc.toNat < 64 := loc.isLt
  have hi := h ⟨loc.toNat - 16, by omega⟩
  simp only [show 16 + (loc.toNat - 16) = loc.toNat by omega] at hi
  rw [← hi]
  unfold State.readLocation
  split <;> first | omega | rfl

/-- A byte of flags is the number they spell. -/
theorem flagsByte_eq (l : List Bool) : flagsByte l = BitVec.ofNat 8 (bitsValue l) := by
  induction l with
  | nil => rfl
  | cons b rest ih =>
    have h : ∀ (b : Bool) (x : Byte), bitByte b ||| (x <<< 1) = BitVec.ofNat 8 (if b then 1 else 0) + 2#8 * x := by
      decide +kernel
    rw [flagsByte, ih, h, bitsValue, BitVec.ofNat_add, BitVec.ofNat_mul]

/-- The bytes of a number, least significant first (R194). -/
theorem leBytes_getD (k n i : Nat) : (leBytes k n).getD i 0 = if i < k then BitVec.ofNat 8 (n / 256 ^ i) else 0 := by
  induction k generalizing n i with
  | zero => simp [leBytes]
  | succ k ih =>
    cases i with
    | zero => simp [leBytes]
    | succ i =>
      simp only [leBytes, List.getD_cons_succ, ih, Nat.add_lt_add_iff_right, Nat.div_div_eq_div_mul, Nat.pow_succ,
        Nat.mul_comm]

/-! ## The looped line -/

theorem inputCanBe_said (s : State) (ch : Channel) (level : Bool) : inputCanBe s ch level = true ↔ s.mayStandAt ch level := by
  unfold inputCanBe State.mayStandAt
  cases s.ser.loop <;> cases (s.tx (otherChannel ch)).out <;> cases level <;> simp [TxOut.level]

theorem canBeAtMark_said (s : State) (ch : Channel) : canBeAtMark s ch = true ↔ s.mayBeAtMark ch := by
  simp [canBeAtMark, State.mayBeAtMark, inputCanBe_said]

/-- What a line carries is what the model keeps of it. -/
theorem lineCarries_bits (s : State) (ch : Channel) (bits : List Bool) (h : s.lineCarries ch bits) :
    bits = (s.chan (otherChannel ch)).lineBits := by
  have e : (s.tx (otherChannel ch)) = (s.chan (otherChannel ch)).tx := rfl
  unfold State.lineCarries at h
  rw [e] at h
  unfold SerialChannel.lineBits
  split at h <;> simp_all

/-- A fall that is left to hear is a fall of the line, no sooner than the next one. -/
theorem fallLeft_said (s : State) (ch : Channel) (i : Nat) (h : s.fallLeft ch i) :
    (s.rx ch).place.fallsAt (s.chan (otherChannel ch)).lineBits i = true ∧ (s.rx ch).place.heard ≤ i * lineUnit s ch ∧
      ∀ k, nextFall s ch = some k → k ≤ i := by
  obtain ⟨-, bits, hb, hi, hp, hh⟩ := h
  have hf : (s.rx ch).place.fallsAt (s.chan (otherChannel ch)).lineBits i = true := by
    rw [← lineCarries_bits s ch bits hb]
    cases i with
    | zero => simpa [LinePlace.fallsAt, List.getD_eq_getElem?_getD, hi] using hp
    | succ i => simp_all [LinePlace.fallsAt, List.getD_eq_getElem?_getD]
  exact ⟨hf, hh, fun k hk => nextFall_le s ch i k hk hf hh⟩

/-- A line falls only within a character or a break. -/
theorem lineCarries_of_fall (s : State) (ch : Channel) (k : Nat)
    (hf : (s.rx ch).place.fallsAt (s.chan (otherChannel ch)).lineBits k = true) :
    s.lineCarries ch (s.chan (otherChannel ch)).lineBits ∧ (s.chan (otherChannel ch)).lineBits[k]? = some false ∧
      if k = 0 then (s.rx ch).place.before ≠ some 0 else (s.chan (otherChannel ch)).lineBits[k - 1]? = some true := by
  simp only [LinePlace.fallsAt, Bool.and_eq_true, beq_iff_eq, List.getD_eq_getElem?_getD] at hf
  obtain ⟨hp, hk⟩ := hf
  have hk' : (s.chan (otherChannel ch)).lineBits[k]? = some false := by
    cases e : (s.chan (otherChannel ch)).lineBits[k]? <;> simp_all
  refine ⟨?_, hk', ?_⟩
  · have e : s.tx (otherChannel ch) = (s.chan (otherChannel ch)).tx := rfl
    unfold State.lineCarries
    rw [e]
    unfold SerialChannel.lineBits at hk' ⊢
    split <;> simp_all [List.getElem?_cons]
  · cases k with
    | zero => simpa using hp
    | succ k => cases e : (s.chan (otherChannel ch)).lineBits[k]? <;> simp_all

/-- What the receiver hears of a fall is what the fall begins. -/
theorem fallBegins_said (s : State) (ch : Channel) (k : Nat) (h : LoopHeard) (hk : loopHeard s ch k = some h) :
    s.fallBegins ch k (some h) (placePastFall s ch k) := by
  obtain ⟨⟨hl, hf, hh, hn⟩, rfl⟩ := (loopHeard_eq_some s ch k h).1 hk
  obtain ⟨hb, hz, hp⟩ := lineCarries_of_fall s ch k hf
  exact .inr ⟨hl, _, hb, hz, hp, hh, hn, rfl, rfl⟩

/-- A fall of the line at or behind the receiver's place is left to hear. -/
theorem fallLeft_of (s : State) (ch : Channel) (i : Nat) (hl : s.ser.loop = true)
    (hf : (s.rx ch).place.fallsAt (s.chan (otherChannel ch)).lineBits i = true)
    (hh : (s.rx ch).place.heard ≤ i * lineUnit s ch) : s.fallLeft ch i :=
  have c := lineCarries_of_fall s ch i hf
  ⟨hl, _, c.1, c.2.1, c.2.2, hh⟩

theorem watchAfresh_eq (input : Option Bool) (r : Receiver) : r.watchAfresh input = r.afresh input := rfl

end Sys2Proof.Machine
end

