-- ==== Sys2Proof/Tests/Slice0.lean ====
section
/-! SUPPORT. The model's own tests: the checks of WellFormed refuse what they are for; single commands give the values the data
manual works out; and for each statement with hypotheses a concrete state that meets them. Expected values are the manual's. -/

namespace Sys2Proof.Tests
open Sys2Proof Sys2Proof.Machine

-- One theorem after another: side by side, the many kernel evaluations of this file exhaust the build's memory limit.
set_option Elab.async false

/-! ## WellFormed -/

theorem test_wf_refuses_gap_above_longest : (Instr.rxFall .a { markBits := 181, bit := 0 }).wellFormed = false := by decide
theorem test_wf_takes_longest_gap : (Instr.rxFall .a { markBits := 180, bit := 0 }).wellFormed = true := by decide
theorem test_wf_refuses_known_code : (Instr.unknownCommandCode 0x10).wellFormed = false := by decide
theorem test_wf_takes_unknown_code : (Instr.unknownCommandCode 0x16).wellFormed = true := by decide
theorem test_wf_refuses_result_moved_to_itself : (Instr.resultRead (.moved 0x03) .none).wellFormed = false := by decide
theorem test_wf_refuses_ptr_moved_to_itself : (Instr.mmPtrLowRead (.moved 0x0A)).wellFormed = false := by decide
theorem test_wf_refuses_data_moved_to_itself : (Instr.mmDataRead (.moved 0x0C)).wellFormed = false := by decide
theorem test_wf_refuses_capture_moved_to_itself : (Instr.capDataRead (.moved 0x0D)).wellFormed = false := by decide
theorem test_wf_takes_moved_read : (Instr.mmDataRead (.moved 0x00)).wellFormed = true := by decide
theorem test_wf_refuses_command_as_register : (Instr.registerWrite .taken 0x03 0x10).wellFormed = false := by decide
theorem test_wf_takes_page_write : (Instr.registerWrite .taken 0x01 7).wellFormed = true := by decide

/-! ## The command code table (R196) and the table's words -/

theorem test_every_code_names_its_command :
    commandCodes.map commandOfCode =
      [.timeSnapshot, .timeLoadCal, .timeLoadCount, .timeStep, .timeRun, .timeStop, .entryLoad, .entryRead, .entryRelease,
       .entryArmAt, .entryArmIn, .entryDisarm, .agendaClear, .lineWrite, .lineRead, .msgDefine, .msgUndefine, .msgRead,
       .chConfig, .chFrameConfig, .chSend, .chBreak, .chAbort, .chTxReset, .chRxReset, .chRead, .loopSet, .evConfig, .capPop,
       .capFlush, .trigWrite, .trigRead, .trigDisable, .noticePop, .noticeFlush, .softReset] := by decide
theorem test_other_code_is_unknown : commandOfCode 0xFF = .unknownCommandCode 0xFF := by decide
theorem test_no_word_spells_a_command : decodeTableWord 8 0x10 = none := rfl

/-! ## Helpers -/

/-- The state a command leaves. -/
def after (c : Instr) (s : State) : State :=
  match exec c s with
  | .next t => t
  | .fault _ => s
  | .refused _ => s

/-- The part after a cold start with the Time Base RUNNING at a count. -/
def runningAt (count : Nat) : State :=
  { State.reset with tb := { State.reset.tb with run := .running, count := count } }

/-- The part with ARG and one byte of a staging field set by the test. -/
def withArg (s : State) (arg : Byte) : State := { s with biu := { s.biu with arg := arg } }

/-- Bytes as a staging of `n` bytes. -/
def stage (n : Nat) (bytes : List Byte) : Vector Byte n := Vector.ofFn fun i => bytes.getD i.val 0

/-- A tick eight oscillator periods after the step before, or at the first pass of the phase from 7 to 0, that every block takes
at once. -/
def prompt : TickOrder := { waited := 7, edgeStampBefore := false, lateDu := false, lateTxA := false, lateTxB := false }

/-- Slot 5 ARMED with an entry, alone on the due list, and slot 6 HELD with the FREE image's fields. -/
def armed (e : Entry) (count : Nat) : State :=
  { runningAt count with
    au := { Agenda.reset with
      slots := (Agenda.reset.slots.set 5 { state := .armed, entry := e }).set 6 { state := .held, entry := Entry.freeImage }
      dueList := [5] } }

/-- A state whose agenda has a command in flight. -/
def inFlight (s : State) (command : AgendaCommand) (arg : Byte) (staging : Vector Byte 28) : State :=
  { s with au := { s.au with inFlight := some { command := command, arg := arg, staging := staging } } }

/-- Message 3 defined at offset 0 with length 2, its bytes 0x41 and 0x42. -/
def withMessage (s : State) : State :=
  { s with mm := { s.mm with
    store := [(0, 0x41), (1, 0x42)]
    directory := s.mm.directory.set 3 { defined := true, offset := 0, length := 2, busy := 0 } } }

/-- Both of channel A's enables on. -/
def onA (s : State) : State :=
  let on : ChannelConfig := { ChannelConfig.reset with txEnable := true, rxEnable := true }
  { s with ser := { s.ser with chans := s.ser.chans.set .a { s.chan .a with config := on } } }

/-- Channel A sends the SENDs of message 3 in a queue. -/
def sending (queue : List Request) (index : Nat) : State :=
  (withMessage (onA State.reset)).withTx .a
    { Transmitter.reset with state := .sending, queue := queue, out := .char 0x41, byteIndex := index, elapsed := 9 }

/-- Channel A's receiver in a given condition. -/
def receiving (r : Receiver) : State := (onA State.reset).withRx .a r

/-- An EDGE record of EV0. -/
def edgeRecord : CaptureRecord := freshRecord (.edge 0 .rising) { count := 7, generation := 0 } 0

/-- The capture queue with `n` closed records. -/
def queued (s : State) (n : Nat) : State := { s with cu := { s.cu with queue := List.replicate n edgeRecord } }

/-- A FRAME record of channel A with `n` bytes at place 0. -/
def frameRecord (n : Nat) : CaptureRecord :=
  { freshRecord (.frame .a) { count := 7, generation := 0 } 0 with length := n, endCause := some .gap }

/-- The read window with a two-byte frame of channel A. -/
def window (index : Nat) : State :=
  { State.reset with cu := { Capture.reset with
    window := some (frameRecord 2), readIndex := index, rings := { a := { start := 0, held := [0x41, 0x42] }, b := .reset } } }

/-- Edges found at a tick and not yet offered. -/
def found (s : State) (edges : List (Fin 4 × EdgeDir)) (generation : BitVec 8) : State :=
  { s with evi := { s.evi with found := [{ edges := edges, stamp := { count := 7, generation := generation } }] } }

/-! ## Time Base (01) -/

theorem test_last_calendar_value_is_end :
    ({ year := 2099, month := 12, day := 31, hour := 23, minute := 59, second := 59, fraction := 4095 } : Calendar).toTicks =
      Config.endTime := by decide +kernel
theorem test_first_day_is_a_saturday :
    calendarOf 0 = { year := 2000, month := 1, day := 1, hour := 0, minute := 0, second := 0, fraction := 0 } ∧
      weekdayOf 0 = 6 := by decide +kernel
theorem test_no_29_february_2001 :
    ({ year := 2001, month := 2, day := 29, hour := 0, minute := 0, second := 0, fraction := 0 } : Calendar).valid = false ∧
    ({ year := 2000, month := 2, day := 29, hour := 0, minute := 0, second := 0, fraction := 0 } : Calendar).valid = true := by
  decide +kernel
theorem test_no_second_60 :
    ({ year := 2000, month := 1, day := 1, hour := 23, minute := 59, second := 60, fraction := 0 } : Calendar).valid = false := by
  decide +kernel
theorem test_unwritten_staging_is_a_bad_date : (after .timeLoadCal State.reset).biu.result = .badDate := by decide +kernel
theorem test_no_tick_right_after_a_load :
    (after (.tick 0 { prompt with waited := 6 }) (after .timeLoadCount (runningAt 0))).tb =
      { (after .timeLoadCount (runningAt 0)).tb with phase := 7 } := by decide +kernel
theorem test_tick_reaches_end :
    (after (.tick 0 prompt) (runningAt (Config.endTime - 1))).tb.count = Config.endTime := by decide +kernel
theorem test_tick_at_end_stops :
    (after (.tick 0 prompt) (runningAt Config.endTime)).tb.run = .stopped ∧
      (after (.tick 0 prompt) (runningAt Config.endTime)).faultSet .timeEnd = true := by decide +kernel
theorem test_run_at_end_is_refused : (after .timeRun (runningAt Config.endTime)).biu.result = .outOfRange := by decide +kernel
theorem test_step_back_keeps_the_fraction :
    (after .timeStep { runningAt 5000 with tb := { (runningAt 5000).tb with
      staging := stage 18 (List.replicate 16 0 ++ [0xFF, 0xFF]) } }).tb.count = 904 := by decide +kernel

/-! ## Agenda and occurrences (02, 03) -/

/-- Slot 30 of chapter 03's worked sequence, in slot 5: period 40,960, repeat 4, remaining 1, tolerance 200, DL5. -/
def lastOfFour : Entry :=
  { Entry.freeImage with
    due := 6000000, period := 40960, repeats := 4, remaining := 1, tolerance := 200, setMask := 0x20,
    notify := { onFire := true, onMiss := false, onSpent := true, onTxEnd := false } }

theorem test_late_within_tolerance_is_performed :
    (after .occurrence (armed lastOfFour 6000150)).niu.queue.map Notice.body =
      [.fired 5 150 none false, .spent 5 .repeatDone] := by decide +kernel
theorem test_beyond_tolerance_consumes_two :
    (after .occurrence (armed lastOfFour 6050000)).au.slots[5].entry.missed = 2 ∧
      (after .occurrence (armed lastOfFour 6050000)).au.slots[5].entry.spent = some .repeatDone ∧
      (after .occurrence (armed lastOfFour 6050000)).du.lines[5].level = false := by decide +kernel
theorem test_disarm_before_the_last_occurrence :
    (after .agendaCommandCompletion (inFlight (armed lastOfFour 5999999) .disarm 5 Agenda.reset.staging)).au.slots[5].entry =
      lastOfFour := by decide +kernel
theorem test_load_finds_armed :
    (after .agendaCommandCompletion (inFlight (armed lastOfFour 5999999) .load 5 Agenda.reset.staging)).biu.result =
      .badState := by decide +kernel
theorem test_reset_staging_loads_a_one_shot :
    (after .agendaCommandCompletion (inFlight State.reset .load 9 Agenda.reset.staging)).au.slots[9] =
      { state := .held, entry := Entry.freeImage } := by decide +kernel
theorem test_message_without_definition_is_refused :
    (after .occurrence (armed { lastOfFour with message := some 3 } 6000000)).niu.queue.head?.map Notice.body =
      some (.fired 5 0 (some .noMessage) false) := by decide +kernel
theorem test_two_requests_for_one_slot :
    (after .armRequestGroup { armed lastOfFour 0 with tu := { Triggers.reset with
      answers := [[{ rule := 0, slot := 6, due := 40, current := true }, { rule := 1, slot := 6, due := 50, current := true }]]
      } }).au.slots[6].entry.due = 40 := by decide +kernel

/-! ## Dispatch lines (04): a toggle of a line pulsed from 0 to 1 meets its pulse end (R73) -/

/-- DL0 pulsed to 1 with one tick remaining; LINE_WRITE staging for a toggle with W = 20. -/
def pulsed : State :=
  { State.reset with du := { DispatchUnit.reset with
    staging := stage 5 [1, 1, 20, 0, 1]
    lines := DispatchUnit.reset.lines.set 0
      { level := true, driven := true, pending := some { level := false, remaining := 1 }, source := .host } } }

/-- The order in which the tick reaches the Dispatch Unit late. -/
def late : TickOrder := { prompt with lateDu := true }

theorem test_action_first :
    (after (.tick 0 prompt) (after .lineWrite pulsed)).du.lines[0] =
      { level := false, driven := true, pending := some { level := true, remaining := 19 }, source := .host } := by decide +kernel
theorem test_pulse_end_first :
    (after .lineWrite (after (.tick 0 prompt) pulsed)).du.lines[0] =
      { level := true, driven := true, pending := some { level := false, remaining := 20 }, source := .host } := by decide +kernel
theorem test_pulse_ends_at_its_tick :
    (after (.tick 0 prompt) pulsed).du.lines[0] =
      { level := false, driven := true, pending := none, source := .host } := by decide +kernel
/-- Slot 5 with a pulse of one tick on DL5, due at the next tick, and its OCCURRENCE next in the queue. -/
def pulsing : State := { armed { lastOfFour with pulseWidth := 1 } 5999999 with pending := [.occurrence] }

/-- The part after a tick in a given order and the OCCURRENCE behind it, with nothing more in the queue (R71). -/
def pulsedAt (order : TickOrder) : State := after .occurrence { after (.tick 0 order) pulsing with pending := [] }

theorem test_tick_before_its_occurrence_is_not_counted :
    (pulsedAt prompt).du.lines[5].pending = some { level := false, remaining := 1 } := by decide +kernel
theorem test_tick_after_its_occurrence_ends_the_pulse :
    (after (.tick 0 late) pulsing).du.tickOwed = true ∧ (pulsedAt late).du.tickOwed = false ∧
      (pulsedAt late).du.lines[5].pending = none ∧ (pulsedAt late).du.lines[5].level = false := by decide +kernel
theorem test_no_tick_is_late_without_an_occurrence :
    after (.tick 0 late) pulsed = after (.tick 0 prompt) pulsed := by decide +kernel
theorem test_unwritten_staging_floats_every_line :
    (after .lineWrite pulsed).dlPin 0 = some false ∧
      (after .lineWrite { pulsed with du := { pulsed.du with staging := stage 5 [] } }).dlPin 0 = none := by decide +kernel
theorem test_copy_holds_the_return :
    (after .lineRead pulsed).du.copy[0].pending = some { level := false, remaining := 1 } := by decide +kernel

/-! ## Message memory (05) -/

theorem test_range_to_the_last_byte :
    (after .msgDefine { State.reset with mm := { State.reset.mm with staging := stage 4 [0xFF, 0x07, 1, 0] } }).biu.result =
      .ok := by decide +kernel
theorem test_range_past_the_last_byte :
    (after .msgDefine { State.reset with mm := { State.reset.mm with staging := stage 4 [0xFF, 0x07, 2, 0] } }).biu.result =
      .badArg := by decide +kernel
theorem test_undefine_busy_message_is_locked :
    (after .msgUndefine (withArg (after .chSend
      { withMessage (onA State.reset) with ser := { (onA State.reset).ser with
        staging := stage 15 [0, 0, 0, 0, 0, 0, 3] } }) 3)).biu.result = .locked := by decide +kernel
theorem test_pointer_wraps :
    (after (.mmDataWrite 7) { State.reset with mm := { State.reset.mm with pointer := 2047 } }).mm.pointer = 0 := by decide +kernel
theorem test_write_into_busy_range :
    (after (.mmDataWrite 7) (after .chSend
      { withMessage (onA State.reset) with ser := { (onA State.reset).ser with
        staging := stage 15 [0, 0, 0, 0, 0, 0, 3] } })).faultSet .mmConflict = true := by decide +kernel
theorem test_read_returns_the_byte : (after (.mmDataRead .whole) (withMessage State.reset)).hostRead = some 0x41 := by decide +kernel
theorem test_pointer_low_read_copies :
    (after (.mmPtrLowRead .whole) { State.reset with mm := { State.reset.mm with pointer := 0x7A5 } }).mm.ptrCopy = 7 := by
  decide +kernel
theorem test_message_copy :
    (after .msgRead (withArg (withMessage State.reset) 3)).mm.copy.descriptor.length = 2 := by decide +kernel

/-! ## Transmitters (06) -/

theorem test_character_41_8n1 :
    ChannelConfig.reset.characterBits 0x41 = [false, true, false, false, false, false, false, true, false, true] := by decide +kernel
theorem test_character_c1_7e2 :
    ({ ChannelConfig.reset with dataBits := .seven, parity := .even, stopBits := .two }).characterBits 0xC1 =
      [false, true, false, false, false, false, false, true, false, true, true] := by decide +kernel
theorem test_last_character_is_done :
    (after (.txCharacterEnd .a) (sending [.send 3 .host true] 1)).niu.queue.map Notice.body = [.txDone .a 3 .host 9] := by
  decide +kernel
theorem test_abort_at_the_last_character :
    (after (.txCharacterEnd .a) (after .chAbort (sending [.send 3 .host true] 1))).niu.queue.map Notice.body =
      [.txAborted .a 3 .host 2] := by decide +kernel
theorem test_lead_follows_a_break :
    ((after (.txBreakTimeEnd .a) ((sending [] 0).withTx .a
      { Transmitter.reset with state := .breaking, queue := [.brk 1, .brk 2], out := .low, breakRemaining := 1 })).tx .a).out =
      .lead := by decide +kernel
theorem test_reset_posts_in_queue_order :
    (after .chTxReset (sending [.send 3 .host true, .send 3 (.slot 1) true, .brk 4, .send 3 (.slot 2) true] 0)).niu.queue.map
      Notice.body = [.txAborted .a 3 (.slot 1) 0, .txAborted .a 3 (.slot 2) 0] := by decide +kernel
theorem test_unwritten_staging_configures_nothing : (after .chConfig State.reset).biu.result = .badArg := by decide +kernel
theorem test_break_of_length_0 : (after .chBreak (onA State.reset)).biu.result = .badArg := by decide +kernel
theorem test_loop_needs_idle_transmitters :
    (after .loopSet (withArg (sending [.send 3 .host true] 0) 1)).biu.result = .badState := by decide +kernel
theorem test_break_head_reads_host :
    headBytes { request := some (.brk 4), byteIndex := 0, breakRemaining := 3, elapsed := 260 } =
      [2, 0, 64, 0, 0, 4, 3, 4, 1] := by decide +kernel

/-! ## Receivers and event inputs (07) -/

/-- Channel A's receiver with a start bit's fall just taken in IDLE. -/
def falling : Receiver :=
  { Receiver.reset with
    state := .inChar, noted := some { count := 7, generation := 0 },
    lowWatch := some { stamp := { count := 7, generation := 0 }, byStartBit := true, looped := none } }

/-- Channel A's receiver in an OPEN frame with a character under way. -/
def inCharacter : State :=
  { receiving { falling with frame := .opened, startConfirmed := true, chars := 1 } with
    cu := { Capture.reset with
      opened := { a := some (frameRecord 1), b := none }, rings := { a := { start := 0, held := [0x41] }, b := .reset } } }

theorem test_false_start_returns_to_idle :
    ((after (.startBitSample .a true) (receiving falling)).rx .a).state = .idle := by decide +kernel
theorem test_frame_is_stamped_at_the_fall :
    (after (.startBitSample .a false) (receiving falling)).cu.opened.a.map CaptureRecord.stamp =
      some { count := 7, generation := 0 } := by decide +kernel
theorem test_frame_without_a_slot_is_dropped :
    (after (.startBitSample .a false) (queued (receiving falling) 32)).cu.dropped.a = 1 := by decide +kernel
theorem test_byte_is_stored :
    (after (.rxCharacterComplete .a 0x42 false true) inCharacter).cu.rings.a.held = [0x41, 0x42] := by decide +kernel
theorem test_break_with_a_start_bit_ends_the_frame :
    (after (.breakDetected .a) inCharacter).cu.queue.map CaptureRecord.endCause = [some .brk] := by decide +kernel
theorem test_reset_abandons_the_frame : (after .chRxReset inCharacter).cu.rings.a.held = [] := by decide +kernel

/-- The cross-loop on, transmitter B with a character on its line and receiver A in a given condition; both configured alike. -/
def looped (out : TxOut) (r : Receiver) : State :=
  let s := (receiving r).withTx .b { Transmitter.reset with state := .sending, out := out }
  { s with ser := { s.ser with loop := true } }

/-- What receiver A hears of a character 0x41 from its start bit on. -/
def hears41 : LoopHeard := { bits := ChannelConfig.reset.characterBits 0x41, divisor := 1, after := .carries 0 }

/-- Channel A's receiver in a character whose low began a character of transmitter B. -/
def lowFrom (heard : LoopHeard) : Receiver :=
  { falling with
    startConfirmed := true, looped := some heard
    lowWatch := some { stamp := { count := 7, generation := 0 }, byStartBit := true, looped := some heard } }

/-- What receiver A hears of one character time of a break. -/
def heardBreak : LoopHeard := { bits := List.replicate 10 false, divisor := 1, after := .carries 0 }

/-- The same with channel A at another divisor. -/
def slowly (divisor : Nat) (s : State) : State :=
  { s with ser := { s.ser with chans := s.ser.chans.set .a { s.chan .a with
    config := { (s.chan .a).config with divisor := divisor } } } }

/-- The same with channel B at another divisor. -/
def slowB (divisor : Nat) (s : State) : State :=
  { s with ser := { s.ser with chans := s.ser.chans.set .b { s.chan .b with
    config := { (s.chan .b).config with divisor := divisor } } } }

/-- The same with channel A at even parity: its first stop bit falls where channel B, which has none, is at rest. -/
def withParity (s : State) : State :=
  { s with ser := { s.ser with chans := s.ser.chans.set .a { s.chan .a with
    config := { (s.chan .a).config with parity := .even } } } }

/-- The cross-loop on and transmitter B at the first byte of message 3. -/
def loopedSend (r : Receiver) : State :=
  (withMessage (looped (.char 0x41) r)).withTx .b
    { Transmitter.reset with state := .sending, out := .char 0x41, queue := [.send 3 .host false] }

/-- A place on a line with no bound on the mark before it. -/
def spot (before : Option Nat) (heard : Nat) : LinePlace :=
  { before := before, whole := true, heard := heard, mark := none, counted := 0, tracked := true }

/-- Channel A's receiver at a place on the line of transmitter B. -/
def placed (before : Option Nat) (heard : Nat) : Receiver := { Receiver.reset with place := spot before heard }

theorem test_loop_fall_is_heard_once :
    let completed := after (.rxCharacterComplete .a 0x41 false true)
      (looped (.char 0x41) { falling with looped := some hears41, startConfirmed := true })
    (completed.rx .a).chars = 1 ∧ (completed.rx .a).markQualified = true ∧
      after (.rxFall .a { markBits := 0, bit := 0 }) completed = completed ∧
      after (.rxFall .a { markBits := 0, bit := 2 }) completed = completed := by decide +kernel
theorem test_loop_next_fall_is_heard :
    ((after (.rxFall .a { markBits := 0, bit := 0 })
      (after (.txCharacterEnd .b) (loopedSend { placed none 19 with markQualified := true }))).rx .a).state = .inChar := by
  decide +kernel
theorem test_loop_no_fall_is_passed_over :
    let s := looped (.char 0x55) { placed none 0 with markQualified := true }
    after (.rxFall .a { markBits := 0, bit := 2 }) s = s ∧
      ((after (.rxFall .a { markBits := 0, bit := 0 }) s).rx .a).state = .inChar ∧
      ((after (.rxFall .a { markBits := 0, bit := 2 })
        (s.withRx .a { s.rx .a with place := { spot none 0 with tracked := false } })).rx .a).state = .inChar := by decide +kernel
theorem test_loop_leads_in_a_row_add_up :
    ((after (.txLeadEnd .b) ((looped .lead (placed (some 0) 0)).withTx .b
        { Transmitter.reset with state := .stopping, out := .lead, queue := [.brk 1, .brk 1] })).rx .a).place = spot (some 1) 0 ∧
      ((after (.txLeadEnd .b) ((looped .lead (placed (some 1) 0)).withTx .b
        { Transmitter.reset with state := .stopping, out := .lead, queue := [.brk 1, .brk 1] })).rx .a).place = spot (some 2) 0 ∧
      ((after (.markQualified .a) (slowly 3 (looped .lead (placed (some 2) 0)))).rx .a).markQualified = true ∧
      ((after (.markQualified .a) (slowly 3 (looped .lead (placed (some 1) 0)))).rx .a).markQualified = false := by decide +kernel
theorem test_loop_mark_comes_before_the_fall :
    let s := looped (.char 0x55) (placed (some 1) 0)
    after (.rxFall .a { markBits := 0, bit := 0 }) s = s ∧
      ((after (.rxFall .a { markBits := 0, bit := 0 }) (after (.markQualified .a) s)).rx .a).state = .inChar := by decide +kernel
theorem test_loop_sample_comes_before_the_fall :
    let s := looped (.char 0x42) { falling with
      place := spot (some 1) 0, startConfirmed := true, lowWatch := none, input := some true
      looped := some { hears41 with bits := hears41.bits ++ ChannelConfig.reset.characterBits 0x42, after := .carries 10 } }
    after (.rxFall .a { markBits := 0, bit := 0 }) s = s ∧
      ((after (.rxFall .a { markBits := 0, bit := 0 }) (after (.rxCharacterComplete .a 0x41 false true) s)).rx .a).state =
        .inChar := by decide +kernel
theorem test_break_in_a_character_is_the_start_bit_s :
    let low : LowWatch := { stamp := { count := 7, generation := 0 }, byStartBit := false, looped := none }
    let s := receiving { falling with startConfirmed := true, lowWatch := some low }
    after (.breakDetected .a) s = s ∧
      ((after (.breakDetected .a) (s.withRx .a { s.rx .a with lowWatch := some { low with byStartBit := true } })).rx .a).state =
        .brk := by decide +kernel
theorem test_loop_lead_too_short_to_qualify :
    ((after (.markQualified .a) (looped .lead (placed (some 0) 0))).rx .a).markQualified = true ∧
      ((after (.markQualified .a) (slowly 2 (looped .lead (placed (some 0) 0)))).rx .a).markQualified = false := by decide +kernel
theorem test_loop_character_is_no_break :
    after (.breakDetected .a) (looped .mark (lowFrom hears41)) = looped .mark (lowFrom hears41) := by decide +kernel
theorem test_loop_start_bit_is_not_false :
    after (.startBitSample .a true) (looped (.char 0x41) { falling with looped := some hears41 }) =
      looped (.char 0x41) { falling with looped := some hears41 } := by decide +kernel
theorem test_loop_line_at_rest_is_at_1 :
    after (.rxCharacterComplete .a 0x41 true false) (withParity (looped .mark
        { falling with looped := some { hears41 with after := .rest }, startConfirmed := true })) =
      withParity (looped .mark { falling with looped := some { hears41 with after := .rest }, startConfirmed := true }) := by
  decide +kernel
theorem test_loop_next_character_is_heard :
    ((after (.txCharacterEnd .b) (loopedSend { falling with looped := some hears41 })).rx .a).looped =
      some { bits := ChannelConfig.reset.characterBits 0x41 ++ ChannelConfig.reset.characterBits 0x42, divisor := 1,
             after := .carries 10 } := by decide +kernel
theorem test_loop_slow_receiver_hears_the_break :
    after (.startBitSample .a true) (slowly 20 (looped .low { falling with looped := some heardBreak })) =
      slowly 20 (looped .low { falling with looped := some heardBreak }) ∧
    ((after (.startBitSample .a false) (slowly 20 (looped .low { falling with looped := some heardBreak }))).rx
      .a).startConfirmed = true ∧
    after (.startBitSample .a false) (slowly 20 (looped .mark { falling with looped := some { heardBreak with after := .rest } })) =
      slowly 20 (looped .mark { falling with looped := some { heardBreak with after := .rest } }) := by decide +kernel
theorem test_loop_short_break_is_none :
    after (.breakDetected .a) (slowly 2 (looped .mark (lowFrom { heardBreak with after := .rest }))) =
      slowly 2 (looped .mark (lowFrom { heardBreak with after := .rest })) ∧
    ((after (.breakDetected .a) (looped .mark (lowFrom { heardBreak with after := .rest }))).rx .a).state = .brk := by
  decide +kernel
theorem test_loop_break_is_no_byte :
    let s := looped .mark (lowFrom { heardBreak with after := .rest })
    after (.rxRise .a) s = s ∧ after (.rxCharacterComplete .a 0 false false) s = s ∧
      after (.rxCharacterComplete .a 0 false false) (s.withRx .a { s.rx .a with lowWatch := none }) =
        s.withRx .a { s.rx .a with lowWatch := none } ∧
      ((after (.rxRise .a) (after (.breakDetected .a) s)).rx .a).state = .idle := by decide +kernel
theorem test_loop_rise_where_the_low_ends :
    ((after (.rxRise .a) (looped (.char 0x41) (lowFrom hears41))).rx .a).place = spot none 2 ∧
      after (.rxRise .a) (looped .low (lowFrom heardBreak)) = looped .low (lowFrom heardBreak) := by decide +kernel
theorem test_loop_no_gap_between_characters :
    let inFrame : Receiver := { Receiver.reset with
      state := .inFrame, frame := .dropped, input := some true, place := { spot (some 1) 0 with mark := some 0 } }
    after (.gapExpiry .a) (looped (.char 0x41) inFrame) = looped (.char 0x41) inFrame ∧
      ((after (.gapExpiry .a) (looped .mark inFrame)).rx .a).state = .idle ∧
      after (.gapExpiry .a) (slowB 80 (looped (.char 0x41) inFrame)) = slowB 80 (looped (.char 0x41) inFrame) ∧
      ((after (.gapExpiry .a) (slowB 80 (looped (.char 0x41)
        { inFrame with place := { inFrame.place with heard := 1120 } }))).rx .a).state = .idle := by decide +kernel
theorem test_loop_gives_the_byte_sent :
    ((after (.rxCharacterComplete .a 0x41 false true) (looped .mark { falling with looped := some hears41, startConfirmed := true })).rx
        .a).chars = 1 ∧
      ((after (.rxCharacterComplete .a 0x40 false true) (looped .mark { falling with looped := some hears41, startConfirmed := true })).rx
        .a).chars = 0 := by decide +kernel
theorem test_gap_stands_still_at_0 :
    ((after .chRead (receiving { Receiver.reset with state := .inFrame, gap := 3, input := some false })).rx .a).gap = 3 := by
  decide +kernel
theorem test_read_tells_an_unknown_level :
    ((after .chRead (receiving { Receiver.reset with state := .inFrame, gap := 3 })).rx .a).input.isSome = true := by decide +kernel
theorem test_edges_meet_one_free_slot :
    (after .edgeGroup (found (queued State.reset 31) [(0, .rising), (2, .rising)] 0)).cu.droppedEv = 1 ∧
      ((after .edgeGroup (found (queued State.reset 31) [(0, .rising), (2, .rising)] 0)).cu.queue.getLast?.map
        CaptureRecord.source) = some (.edge 0 .rising) := by decide +kernel
theorem test_first_sample_is_no_edge :
    (after (.tick 0xF prompt) { State.reset with evi := { EventInputs.reset with rising := 0xF } }).evi.found = [] := by decide +kernel

/-! ## Capture queue and triggers (08, 09) -/

theorem test_pop_of_an_empty_queue : (after .capPop (window 2)).biu.result = .empty := by decide +kernel
theorem test_pop_frees_the_window :
    (after .capPop (queued (window 2) 1)).cu.rings.a = { start := 2, held := [] } := by decide +kernel
theorem test_data_past_the_end_is_0 : (after (.capDataRead .whole) (window 2)).hostRead = some 0 := by decide +kernel
theorem test_data_in_order : (after (.capDataRead .whole) (window 1)).hostRead = some 0x42 := by decide +kernel
theorem test_prefix_on_an_edge_source :
    (after .trigWrite { State.reset with tu := { Triggers.reset with staging := stage 11 [1, 2, 1] } }).biu.result =
      .badArg := by decide +kernel

/-- Rule 0 fires on rising edges of EV0. -/
def edgeRule (s : State) : State :=
  { s with tu := { Triggers.reset with
    rules := Triggers.reset.rules.set 0 { Rule.reset with enabled := true, source := .edge 0 .rising, target := 6 } } }

theorem test_stale_edge_misses :
    (after .edgeGroup (found (edgeRule State.reset) [(0, .rising)] 1)).niu.queue.map Notice.body =
      [.triggerMiss 0 6 .staleTime] := by decide +kernel
theorem test_disable_keeps_the_rest :
    (after .trigDisable (edgeRule State.reset)).tu.rules[0].source = .edge 0 .rising := by decide +kernel

/-! ## Notices and the bus (10, 11) -/

theorem test_threshold_33_is_1 : (after (.noticeThresholdWrite 33) State.reset).niu.threshold = 1 := by decide +kernel
theorem test_threshold_32 : (after (.noticeThresholdWrite 32) State.reset).niu.threshold = 32 := by decide +kernel
theorem test_fault_write_clears_its_bits :
    (after (.faultWrite 0x21) { State.reset with niu := { Notices.reset with faults := 0x3F } }).niu.faults = 0x1E := by decide +kernel
theorem test_cause_priority :
    (after .capFlush { queued State.reset 1 with niu := { Notices.reset with causeEnable := 0xF } }).readLocation 0x04 = 4 ∧
      ({ queued State.reset 1 with niu := { Notices.reset with causeEnable := 0xF } }).readLocation 0x04 = 2 := by decide +kernel
theorem test_unknown_code : (after (.unknownCommandCode 0x99) State.reset).readLocation 0x03 = 0x01 := by decide +kernel
theorem test_soft_reset_has_no_completion :
    (after .softReset State.reset).readLocation 0x03 = 0xFF ∧ (after .softReset State.reset).biu.cmdDone = false := by decide +kernel
theorem test_half_cycles_are_ignored :
    after .timeRun (after .timeRun (after (.resetNRelease 2) (after .resetNAssert State.reset))) = State.reset ∧
      (after (.resetNRelease 1) (after .resetNAssert State.reset)).drives false 0x03 = none ∧
      State.reset.drives false 0x03 = some 0xFF := by decide +kernel
theorem test_half_plain_read_drives_nothing :
    let released := after (.resetNRelease 0) (after .resetNAssert State.reset)
    released.drives true 0x02 = none ∧ released.drives false 0x02 = some 0 ∧
      (after .timeRun released).tb.run = .running := by decide +kernel
theorem test_notice_pop_on_empty : (after .noticePop State.reset).biu.result = .empty := by decide +kernel
theorem test_free_slot_reads_its_image :
    (entryPage State.reset.au.window).drop 22 = [255, 0, 0, 255] ++ List.replicate 19 0 := by decide +kernel
theorem test_snapshot_page_of_the_first_tick :
    timePage (takeLatch State.reset.tb) = [0, 0, 0, 0, 0, 0, 0, 0, 0xD0, 0x07, 1, 1, 6, 0, 0, 0, 0, 0] := by decide +kernel

/-! ## Witnesses: for each statement with hypotheses, states and operands that meet them, clause by clause -/

theorem witness_StepRunsFrontCommand : (State.reset.withFront .timeStop).pending = .timeStop :: [] := rfl
theorem witness_IdleStepIsOneOscillatorPeriod :
    State.reset.pending = [] ∧ State.reset.power.backupHeld = true ∧ State.reset.tb.phase < 7 ∧
      ({ State.reset with tb := { State.reset.tb with phase := 7 } }).pending = [] ∧
      (after (.vmainFall false) State.reset).pending = [] ∧
      (after (.vmainFall false) State.reset).power.backupHeld = false := by decide +kernel

/-- VMAIN below its threshold with VBACK holding the backup domain. -/
def down : State := after (.vmainFall true) State.reset

theorem witness_SuppliesAndResetPin :
    State.reset.power.vmainGood = true ∧ down.power.vmainGood = false ∧
      (after .resetNAssert State.reset).power.resetHigh = false := by decide +kernel

/-- The port BUSY with an ENTRY_READ of slot 5. -/
def busy : State := inFlight State.reset .read 5 Agenda.reset.staging

theorem ready_reset : State.reset.portReady := by decide +kernel
theorem witness_SoftResetActsAsResetPin :
    State.reset.portReady ∧ busy.busReady ∧ busy.au.inFlight.isSome = true := by decide +kernel
theorem witness_TickMovesTheCount :
    State.reset.power.backupHeld = true ∧ State.reset.tb.phase + ({ prompt with waited := 6 } : TickOrder).waited.val + 1 < 8 ∧
      8 ≤ State.reset.tb.phase + prompt.waited.val + 1 ∧ down.power.backupHeld = true ∧ ¬ down.mainUp ∧
      (runningAt Config.endTime).power.backupHeld = true ∧ (runningAt Config.endTime).mainUp := by decide +kernel
theorem witness_TickCountsPulsesAndTransmissions :
    pulsed.power.backupHeld = true ∧ pulsed.mainUp ∧ 8 ≤ pulsed.tb.phase + prompt.waited.val + 1 ∧ pulsed.du.tickOwed = false ∧
      prompt.lateDu = false ∧ prompt.lateTxA = false ∧ prompt.lateTxB = false ∧
      pulsed.du.lines[0].pending = some { level := false, remaining := 1 } ∧ pulsed.du.lines[1].pending = none ∧
      (after .lineWrite pulsed).du.lines[0].pending = some { level := true, remaining := 20 } ∧
      (sending [.send 3 .host true] 0).sends .a ∧ (sending [.send 3 .host true] 0).sends .b := by decide +kernel
theorem witness_TickCountsPulsesAndTransmissions_on_its_way :
    (after (.tick 0 late) pulsing).takes 5 [] ∧ (after (.tick 0 late) pulsing).du.tickOwed = true ∧
      exec .occurrence (after (.tick 0 late) pulsing).owingNothing =
        .next (after .occurrence (after (.tick 0 late) pulsing).owingNothing) ∧
      ¬ (after .occurrence (after (.tick 0 late) pulsing)).ticksMayWait ∧
      (after .occurrence { after (.tick 0 late) pulsing with pending := [.pulseEnd] }).ticksMayWait ∧
      (after (.tick 0 late) pulsing).ticksMayWait ∧ ¬ (after (.tick 0 late) pulsed).ticksMayWait := by
  refine ⟨by decide +kernel, by decide +kernel, rfl, ?_, .inl (by decide +kernel),
    .inr ⟨by decide +kernel, 5, [], by decide +kernel⟩, ?_⟩
  · rintro (h | ⟨-, i, rest, h⟩)
    · exact absurd h (by decide +kernel)
    · have e : (after .occurrence (after (.tick 0 late) pulsing)).au.dueList = [] := by decide +kernel
      exact absurd (e.symm.trans h.2.2.1) (by simp)
  · rintro (h | ⟨h, -⟩) <;> exact absurd h (by decide +kernel)
theorem witness_TickSamplesTheEventInputs :
    State.reset.power.backupHeld = true ∧ State.reset.mainUp ∧ 8 ≤ State.reset.tb.phase + prompt.waited.val + 1 := by decide +kernel

/-- The part with a page selected. -/
def onPage (page : Byte) : State := { State.reset with biu := { State.reset.biu with page := page } }

theorem witness_SnapshotRunAndStop :
    (onPage 1).biu.page = 1 ∧ State.reset.portReady ∧ State.reset.tb.count ≠ Config.endTime ∧
      (runningAt Config.endTime).portReady ∧ (runningAt Config.endTime).tb.count = Config.endTime := by decide +kernel

/-- A Time Base with staged bytes. -/
def staged (count : Nat) (bytes : List Byte) : State :=
  { runningAt count with tb := { (runningAt count).tb with staging := stage 18 bytes } }

theorem witness_TimeLoadsAndStepsSetTheCount :
    (staged 0 [0xD0, 0x07, 1, 1]).portReady ∧
      (stagedCalendar (staged 0 [0xD0, 0x07, 1, 1]).tb.staging).valid = true ∧
      (stagedCalendar (staged 0 []).tb.staging).valid = false ∧
      stagedCount (staged 0 (List.replicate 10 0 ++ leBytes 6 Config.endTime)).tb.staging = Config.endTime ∧
      stagedCount (staged 0 (List.replicate 10 0 ++ leBytes 6 (Config.endTime + 1))).tb.staging = Config.endTime + 1 ∧
      stagedDelta (staged 4096 (List.replicate 16 0 ++ [0xFF, 0xFF])).tb.staging = -1 ∧
      ((0 : Nat) : Int) = (4096 : Nat) + (-1) * 4096 ∧
      stagedDelta (staged 4095 (List.replicate 16 0 ++ [0xFF, 0xFF])).tb.staging = -1 ∧
      ((4095 : Nat) : Int) + (-1) * 4096 < 0 := by decide +kernel
theorem witness_CalendarConversionsAgree :
    Config.endTime ≤ Config.endTime ∧
      ({ year := 2099, month := 12, day := 31, hour := 23, minute := 59, second := 59, fraction := 4095 } :
        Calendar).valid = true := by decide +kernel
theorem witness_TimeGoesBackOnlyWithANewGeneration :
    exec .timeStop State.reset = .next (State.reset.answered .ok) := by rfl
theorem witness_AgendaCommandsAreAccepted : State.reset.portReady := ready_reset
theorem witness_BadSlotNumberIsBadArg :
    (inFlight State.reset .load 64 Agenda.reset.staging).mainUp ∧
      (64 : Nat) ≤ (64 : Byte).toNat ∧ (63 : Byte).toNat < 64 ∧ (63 : Fin 64).val = (63 : Byte).toNat ∧
      (inFlight State.reset .clear 255 Agenda.reset.staging).mainUp := by decide +kernel

/-- An entry staging with a message and a chain target byte. -/
def entryStage (message chain : Byte) (due : Nat) : Vector Byte 28 :=
  stage 28 (leBytes 6 due ++ List.replicate 12 0 ++ [message, 0, 0, chain])

theorem witness_EntryLoadChecksThenLoads :
    (inFlight State.reset .load 5 (entryStage 31 63 Config.endTime)).mainUp ∧ (5 : Byte).toNat = (5 : Fin 64).val ∧
      stagedValue (entryStage 31 63 Config.endTime) 0 6 = Config.endTime ∧
      (stagedByte (entryStage 32 5 0) 18).toNat = 32 ∧ (stagedByte (entryStage 32 5 0) 21).toNat = (5 : Fin 64).val ∧
      stagedValue (entryStage 255 255 (Config.endTime + 1)) 0 6 = Config.endTime + 1 ∧
      (inFlight (armed lastOfFour 0) .load 5 (entryStage 255 255 0)).au.slots[5].state = .armed := by decide +kernel
theorem witness_EntryReadReleaseAndClear :
    (onPage 0).biu.page = 0 ∧ busy.mainUp ∧ (5 : Byte).toNat = (5 : Fin 64).val ∧ busy.au.slots[5].state ≠ .armed ∧
      (inFlight (armed lastOfFour 0) .release 5 Agenda.reset.staging).au.slots[5].state = .armed ∧
      (inFlight (armed lastOfFour 0) .clear 255 Agenda.reset.staging).mainUp := by decide +kernel

theorem armed_sound : ∀ count : Nat, AgendaSound (armed lastOfFour count) :=
  have h : AgendaSound (armed lastOfFour 0) := by constructor <;> decide +kernel
  fun _ => ⟨h.ordered, h.listed, h.armed, h.held, h.freed, h.spent, h.unchained, h.requests⟩

/-- As `armed`, for an entry that chains to the HELD slot 6 and queues message 3. -/
def chaining : Entry :=
  { lastOfFour with period := 0, repeats := 0, remaining := 0, message := some 3, chainTarget := some 6, chainDelay := 10 }

theorem chaining_sound : ∀ count : Nat, AgendaSound (armed chaining count) :=
  have h : AgendaSound (armed chaining 0) := by constructor <;> decide +kernel
  fun _ => ⟨h.ordered, h.listed, h.armed, h.held, h.freed, h.spent, h.unchained, h.requests⟩

theorem witness_ArmingKeepsTheDueListInOrder :
    (AgendaSound (inFlight (armed lastOfFour 0) .armAt 6 Agenda.reset.staging)) ∧
      (inFlight (armed lastOfFour 0) .armAt 6 Agenda.reset.staging).mainUp ∧
      (armed lastOfFour 0).au.slots[6].state = .held ∧ (armed lastOfFour 0).au.slots[5].state = .armed ∧
      (armed lastOfFour 0).au.slots[7].state ≠ .armed ∧ (armed lastOfFour Config.endTime).tb.count + 0 ≤ Config.endTime ∧
      (inFlight State.reset .disarm 64 Agenda.reset.staging).mainUp ∧ 64 ≤ (64 : Byte).toNat :=
  ⟨by constructor <;> decide +kernel, by decide +kernel⟩
theorem witness_NoOccurrenceBeforeItsTime :
    State.reset.tb.run = .stopped ∧ (runningAt 0).au.dueList = [] ∧
      (armed lastOfFour 5999999).tb.count < (armed lastOfFour 5999999).au.slots[5].entry.due := by decide +kernel
theorem witness_PerformedOccurrenceHandsOutItsActions :
    AgendaSound (armed chaining 6000200) ∧ (armed chaining 6000200).takes 5 [] ∧ (armed chaining 6000200).ticksTaken ∧
      (armed chaining 6000200).tb.count - chaining.due ≤ chaining.tolerance ∧
      (armed chaining 6000200).mm.directory[3].defined = false ∧ (armed chaining 6000200).au.slots[6].state = .held ∧
      ((armed chaining 6000200).tx .a).queue = [] ∧ ((sending [.send 3 .host true] 0).tx .a).queue ≠ [] :=
  ⟨chaining_sound _, by decide +kernel⟩
theorem witness_MissedOccurrencePerformsNothing :
    AgendaSound (armed lastOfFour 6000201) ∧ (armed lastOfFour 6000201).takes 5 [] ∧ (armed lastOfFour 6000201).ticksTaken ∧
      lastOfFour.tolerance < (armed lastOfFour 6000201).tb.count - lastOfFour.due :=
  ⟨armed_sound _, by decide +kernel⟩
theorem witness_OccurrenceAdvancesItsEntry :
    AgendaSound (armed lastOfFour 6050000) ∧ (armed lastOfFour 6050000).takes 5 [] ∧
      (armed lastOfFour 6050000).au.slots[5].entry = lastOfFour ∧ AgendaSound (armed chaining 6000000) ∧
      (armed chaining 6000000).takes 5 [] ∧
      AgendaSound (armed { lastOfFour with repeats := 0, remaining := 0, due := Config.endTime } Config.endTime) ∧
      (armed { lastOfFour with repeats := 0, remaining := 0, due := Config.endTime } Config.endTime).takes 5 [] ∧
      (armed lastOfFour 6050000).ticksTaken ∧ (armed chaining 6000000).ticksTaken ∧
      (armed { lastOfFour with repeats := 0, remaining := 0, due := Config.endTime } Config.endTime).ticksTaken :=
  ⟨armed_sound _, by decide +kernel, by decide +kernel, chaining_sound _, by decide +kernel,
    by constructor <;> decide +kernel, by decide +kernel⟩

/-- A state whose notice queue has one place left. -/
def noticed (s : State) : State :=
  { s with niu := { s.niu with queue := List.replicate 31 { body := .spent 0 .oneShot, stamp := { count := 0, generation := 0 } } } }

theorem witness_OccurrenceNoticesInOrder :
    AgendaSound (noticed (armed lastOfFour 6000150)) ∧ (noticed (armed lastOfFour 6000150)).takes 5 [] ∧
      (noticed (armed lastOfFour 6000150)).ticksTaken ∧
      (noticed (armed lastOfFour 6000150)).niu.queue.length = 31 ∧ lastOfFour.notify.onFire = true ∧
      lastOfFour.notify.onSpent = true :=
  ⟨by constructor <;> decide +kernel, by decide +kernel⟩

/-- Two requests for the HELD slot 6. -/
def twoRequests : State :=
  { armed lastOfFour 0 with tu := { Triggers.reset with
    answers := [[{ rule := 0, slot := 6, due := 40, current := true }, { rule := 1, slot := 6, due := 50, current := true }]]
    } }

theorem witness_ArmRequestsHitOnceThenMiss :
    AgendaSound twoRequests ∧ twoRequests.mainUp ∧ twoRequests.tu.answers.map List.length = [2] ∧
      twoRequests.au.slots[6].state = .held ∧ twoRequests.tu.answers.map (fun g => [twoRequests.hits g 0, twoRequests.hits g 1]) =
        [[true, false]] ∧ twoRequests.au.slots[5].state ≠ .held :=
  ⟨by constructor <;> decide +kernel, by decide +kernel⟩
theorem witness_LineWriteActsOnItsLines :
    pulsed.portReady ∧ (stagedByte pulsed.du.staging 0).getLsbD 0 = true ∧ (stagedByte pulsed.du.staging 1).getLsbD 0 = true ∧
      (stagedByte pulsed.du.staging 0).getLsbD 7 = false ∧ stagedValue pulsed.du.staging 2 2 = 20 ∧
      stagedValue State.reset.du.staging 2 2 = 0 := by decide +kernel
/-- A tick on its way to the Dispatch Unit, with the PULSE_END that takes it next in the queue. -/
def owing (s : State) : State := after (.tick 0 late) { s with pending := [.pulseEnd] }

/-- A tick on its way to transmitter A alone, with nothing more in the queue. -/
def owedByA (s : State) : State := s.withTx .a { s.tx .a with tickOwed := true }

theorem witness_PulseEndAndLineRead :
    pulsed.mainUp ∧ pulsed.du.tickOwed = false ∧ pulsed.portReady ∧ (onPage 7).biu.page = 7 ∧
      pulsed.ticksTaken ∧ (owing pulsed).mainUp ∧ (owing pulsed).du.tickOwed = true ∧
      (owing pulsed).du.lines[0].pending = some { level := false, remaining := 1 } ∧
      (owing (after .lineWrite pulsed)).du.lines[0].pending = some { level := true, remaining := 20 } ∧
      (owing pulsed).du.lines[7].pending = none ∧ ((owing pulsed).tx .a).tickOwed = false ∧
      ((owing pulsed).tx .b).tickOwed = false ∧ ((after (.tick 0 { late with lateTxA := true }) pulsing).tx .a).tickOwed = true ∧
      (owing pulsed).pending.head? = some .pulseEnd ∧ (owedByA pulsed).mainUp ∧ (owedByA pulsed).du.tickOwed = false ∧
      ((owedByA pulsed).tx .a).tickOwed = true := by decide +kernel
theorem witness_PulseEndAndLineRead_with_no_row_behind : ¬ (owedByA pulsed).ticksMayWait := by
  rintro (h | ⟨h, -⟩) <;> exact absurd h (by decide +kernel)
theorem witness_MessageCommandsFollowTheirChecks :
    (onPage 3).biu.page = 3 ∧ (withArg State.reset 32).portReady ∧ (32 : Nat) ≤ (withArg State.reset 32).biu.arg.toNat ∧
      (withArg (withMessage State.reset) 31).portReady ∧
      (withArg (withMessage State.reset) 31).biu.arg.toNat = (31 : Fin 32).val := by decide +kernel
theorem witness_StorePointerIsSetByItsTwoBytes : State.reset.busReady := by decide +kernel

/-- Message 3 (offsets 0 and 1) is being sent; the pointer stands at an offset. -/
def sendingAt (p : BitVec 11) : State :=
  let s := joinSend .a 3 .host true (withMessage (onA State.reset))
  { s with mm := { s.mm with pointer := p } }

theorem witness_StoreDataReadsAndWrites :
    (sendingAt 2047).busReady ∧ 0 < (sendingAt 1).mm.directory[3].busy ∧
      (sendingAt 1).mm.directory[3].offset ≤ (sendingAt 1).mm.pointer.toNat ∧
      (sendingAt 1).mm.pointer.toNat < (sendingAt 1).mm.directory[3].offset + (sendingAt 1).mm.directory[3].length ∧
      (∀ m : Fin 32, 0 < (sendingAt 2).mm.directory[m].busy →
        (sendingAt 2).mm.directory[m].offset + (sendingAt 2).mm.directory[m].length ≤ (sendingAt 2).mm.pointer.toNat) := by
  decide +kernel
theorem witness_BusyMessageStaysAsQueued :
    0 < (sendingAt 1).mm.directory[3].busy ∧
      exec (.mmDataWrite 7) (sendingAt 1) = .next (after (.mmDataWrite 7) (sendingAt 1)) := ⟨by decide +kernel, rfl⟩
theorem witness_CharacterEndSendsNextOrLeaves :
    (sending [.send 3 .host true] 0).sends .a ∧ ((sending [.send 3 .host true] 0).tx .a).out = .char 0x41 ∧
      ((sending [.send 3 .host true] 0).tx .a).state ≠ .stopping ∧
      ((sending [.send 3 .host true] 0).tx .a).byteIndex + 1 < (sending [.send 3 .host true] 0).mm.directory[3].length ∧
      (sending [.send 3 .host true] 1).mm.directory[3].length ≤ ((sending [.send 3 .host true] 1).tx .a).byteIndex + 1 ∧
      (sending [.send 3 .host true] 1).niu.queue.length < 32 ∧
      ((after .chAbort (sending [.send 3 .host true] 0)).tx .a).state = .stopping ∧
      (sending [.send 3 .host true] 0).ser.loop = false ∧
      (loopedSend { falling with looped := some hears41 }).sends .b ∧
      (loopedSend { falling with looped := some hears41 }).ser.loop = true ∧
      ((loopedSend { falling with looped := some hears41 }).rx .a).state = .inChar ∧ hears41.after = .carries 0 := by
  decide +kernel

/-- Channel A in a BREAK or in a lead. -/
def breaking (state : TxState) (out : TxOut) (remaining : Nat) (queue : List Request) : State :=
  (withMessage (onA State.reset)).withTx .a
    { Transmitter.reset with state := state, out := out, breakRemaining := remaining, queue := queue }

theorem witness_BreakTimesAndLeadsEnd :
    (breaking .breaking .low 2 [.brk 2]).sends .a ∧ ((breaking .breaking .low 2 [.brk 2]).tx .a).breakRemaining = 2 ∧
      (breaking .breaking .low 1 [.brk 2]).sends .a ∧ ((breaking .breaking .low 1 [.brk 2]).tx .a).breakRemaining ≤ 1 ∧
      (breaking .sending .lead 0 [.send 3 .host true]).sends .a ∧
      ((breaking .sending .lead 0 [.send 3 .host true]).tx .a).state ≠ .stopping ∧
      (breaking .stopping .lead 2 [.brk 2]).sends .a ∧ (breaking .stopping .lead 0 [.send 3 .host true]).sends .a ∧
      (breaking .stopping .lead 0 [.send 3 .host true]).niu.queue.length < 32 := by decide +kernel
theorem witness_ChannelSettingsFollowTheirChecks :
    (withArg State.reset 2).portReady ∧ (2 : Nat) ≤ (withArg State.reset 2).biu.arg.toNat ∧
      (withArg State.reset 1).portReady ∧ (withArg State.reset 1).biu.arg = channelCode .b ∧
      State.reset.biu.arg = channelCode .a := by decide +kernel
theorem witness_SendsAndBreaksJoinTheQueue :
    (withArg State.reset 2).portReady ∧ (onA State.reset).portReady ∧ (onA State.reset).biu.arg = channelCode .a ∧
      (31 : Fin 32).val = 31 ∧ (onA State.reset).mm.directory[3].defined = false ∧
      (withMessage (onA State.reset)).mm.directory[3].defined = true ∧
      (State.reset.chan .a).config.txEnable = false ∧ ((onA State.reset).tx .a).queue = [] ∧
      ((sending (List.replicate 8 (.brk 1)) 0).tx .a).queue.length = 8 := by decide +kernel
theorem witness_AbortsStopTheHeadAndEmptyTheQueue :
    (withArg State.reset 2).portReady ∧ State.reset.portReady ∧ (State.reset.tx .a).queue = [] ∧
      (sending [.brk 1, .brk 2] 0).portReady ∧ ((sending [.brk 1, .brk 2] 0).tx .a).queue = [.brk 1, .brk 2] ∧
      (sending [.brk 1, .brk 2] 0).niu.queue.length + 1 ≤ 32 := by decide +kernel
theorem witness_ChannelCopyAndCrossLoop :
    (onPage 2).biu.page = 2 ∧ (withArg State.reset 2).portReady ∧ State.reset.portReady ∧ State.reset.biu.arg = channelCode .a ∧
      State.reset.biu.arg = bitByte false ∧ (withArg State.reset 1).biu.arg = bitByte true ∧
      (State.reset.rx .a).state ≠ .inFrame ∧
      (receiving { Receiver.reset with state := .inFrame }).hears .a ∧
      (receiving { Receiver.reset with state := .inFrame }).portReady ∧
      ((receiving { Receiver.reset with state := .inFrame }).rx .a).lowWatch = none ∧
      (looped .low { Receiver.reset with state := .inFrame, input := some true }).portReady ∧
      (State.reset.rx .a).gap < (State.reset.rx .a).rules.gap * (State.reset.chan .a).config.charBits := by decide +kernel
theorem witness_InputLevelsMoveTheReceiver :
    (receiving Receiver.reset).hears .a ∧ ((receiving Receiver.reset).rx .a).lowWatch = none ∧
      ((receiving Receiver.reset).rx .a).state = .idle ∧
      (receiving { Receiver.reset with state := .inFrame }).hears .a ∧
      (receiving { Receiver.reset with state := .inChar }).hears .a ∧
      (receiving { Receiver.reset with state := .brk }).hears .a ∧
      (looped (.char 0x41) Receiver.reset).hears .a ∧ ((looped (.char 0x41) Receiver.reset).rx .a).input ≠ some false := by
  decide +kernel
theorem witness_InputLevelsMoveTheReceiver_at_a_fall :
    (receiving Receiver.reset).fallBegins .a 0 none (spot none 0) ∧
      (looped (.char 0x41) Receiver.reset).fallBegins .a 0 (some hears41) (spot none 1) ∧
      (looped (.char 0x41) { placed none 4 with markQualified := true }).fallBegins .a 2 (some { hears41 with bits := hears41.bits.drop 2 })
        (spot none 5) ∧
      (∀ heard place, ¬ (looped .mark Receiver.reset).fallBegins .a 0 heard place) ∧
      (∀ heard place, ¬ (looped (.char 0x41) (placed none 5)).fallBegins .a 2 heard place) ∧
      (looped (.char 0x41) Receiver.reset).mayStandAt .a true ∧ ¬ (looped .low Receiver.reset).mayStandAt .a true :=
  ⟨.inl ⟨rfl, rfl, rfl⟩, fallBegins_said _ _ _ _ (by decide +kernel), fallBegins_said _ _ _ _ (by decide +kernel),
    fun _ _ h => by
      obtain ⟨h, -⟩ | ⟨-, _, h, -⟩ := h
      · exact absurd h (by decide +kernel)
      · exact h,
    fun _ _ h => by
      obtain ⟨h, -⟩ | ⟨-, _, -, -, -, h, -⟩ := h
      · exact absurd h (by decide +kernel)
      · exact absurd h (by decide +kernel),
    .inr trivial, fun h => by
      obtain h | h := h
      · exact absurd h (by decide +kernel)
      · exact Bool.noConfusion h⟩
/-- Receiver A unqualified before the first fall of the character 0x55, which one bit of mark precedes. -/
def beforeAFall : State := looped (.char 0x55) (placed (some 1) 0)
/-- The same in a frame whose gap has run out. -/
def gapIsOver : State := looped (.char 0x55) { Receiver.reset with
  state := .inFrame, markQualified := true, place := { spot (some 1) 0 with mark := some 50000 } }
theorem witness_InputLevelsMoveTheReceiver_in_order :
    (beforeAFall.rx .a).place = spot (some 1) 0 ∧ (beforeAFall.rx .a).markQualified = false ∧
      (beforeAFall.chan .a).config.divisor ≤ 1 * (beforeAFall.chan .b).config.divisor ∧
      placeAtMark beforeAFall .a = some (spot (some 1) 0) ∧
      sampleDue (looped (.char 0x41) { falling with looped := some hears41 }) .a hears41 2 = true ∧
      sinceFall (looped (.char 0x41) { falling with looped := some hears41 }) .a hears41 8 = 16 ∧
      markHeard gapIsOver .a (0 * lineUnit gapIsOver .a) = some 50000 ∧ (gapIsOver.rx .a).place.tracked = true ∧
      gapLength gapIsOver .a < 50000 := by decide +kernel
theorem witness_InputLevelsMoveTheReceiver_at_a_fall_left : beforeAFall.fallLeft .a 0 :=
  fallLeft_of _ _ _ (by decide +kernel) (by decide +kernel) (Nat.le_refl 0)
theorem witness_InputLevelsMoveTheReceiver_held_at_0 :
    ¬ (looped .low (placed (some 0) 0)).mayBeAtMark .a ∧ ¬ (looped .low (placed none 1)).mayBeAtMark .a ∧
      (looped .low (placed none 0)).mayBeAtMark .a := by
  simp only [← canBeAtMark_said]
  decide +kernel
theorem witness_InputLevelsMoveTheReceiver_at_a_mark :
    placeAtMark (receiving Receiver.reset) .a = some (spot none 0) ∧
      placeAtMark (looped (.char 0x41) (placed none 1)) .a = some (spot none 2) ∧
      placeAtMark (slowly 2 (looped .lead (placed (some 0) 0))) .a = none ∧ (looped .lead (placed (some 0) 0)).mayStandAt .a true ∧
      (slowly 2 (looped .lead (placed (some 0) 0))).hasNoMark .a :=
  ⟨by decide +kernel, by decide +kernel, by decide +kernel, .inr rfl, [true], 0, ⟨rfl, .inr ⟨rfl, rfl⟩⟩, rfl, fun i n h => by
    have hn : n ≤ 1 := by
      by_contra hn
      have := h (i + 1) (by omega) (by omega)
      simp at this
    show ((if i = 0 then 0 else 0) + n) * 1 < 2
    simp
    omega⟩
theorem witness_StartBitStartsAFrame :
    (receiving falling).hears .a ∧ ((receiving falling).rx .a).state = .inChar ∧
      ((receiving falling).rx .a).startConfirmed = false ∧ ((receiving falling).rx .a).frame = .none ∧
      ((receiving falling).rx .a).noted = some { count := 7, generation := 0 } ∧ (receiving falling).ser.loop = false ∧
      (queued (receiving falling) 31).cu.queue.length < 32 ∧ 32 ≤ (queued (receiving falling) 32).cu.queue.length ∧
      ((receiving { falling with frame := .opened }).rx .a).frame ≠ .none ∧
      (looped (.char 0x41) { falling with looped := some hears41 }).hears .a ∧
      (looped (.char 0x41) { falling with looped := some hears41 }).ser.loop = true ∧
      samplesCanBe (looped (.char 0x41) { falling with looped := some hears41 }) .a 1 [true] = false ∧
      samplesCanBe (looped (.char 0x41) { falling with looped := some hears41 }) .a 1 [false] = true ∧
      samplesCanBe (looped (.char 0x41) { falling with looped := some { hears41 with bits := [false, true], divisor := 1 } }) .a
        1 [true] = false ∧
      samplesCanBe (looped .mark { falling with looped := none }) .a 1 [true] = true ∧
      hears41.bits[1 / 2]? = some false ∧ 1 % 2 ≠ 0 ∧ heardBreak.bits.length * 2 ≤ 20 ∧ heardBreak.bits.length * 2 < 21 ∧
      ((slowly 20 (looped .low { falling with looped := some heardBreak })).rx .a).looped = some heardBreak ∧
      ((slowly 20 (looped .low falling)).chan .a).config.divisor = 20 := by decide +kernel
theorem witness_CharactersFillAndEndFrames :
    inCharacter.hears .a ∧ (inCharacter.rx .a).state = .inChar ∧ (inCharacter.rx .a).startConfirmed = true ∧
      (inCharacter.rx .a).frame = .opened ∧ inCharacter.cu.opened.a = some (frameRecord 1) ∧
      (inCharacter.chan .a).config.dataOf 1 ≠ 0 ∧ inCharacter.ser.loop = false ∧
      (receiving { falling with frame := .dropped, startConfirmed := true }).hears .a ∧
      (looped .mark { falling with looped := some hears41, startConfirmed := true }).hears .a ∧
      (looped .mark { falling with looped := some hears41, startConfirmed := true }).ser.loop = true ∧
      1 ≤ ((looped .mark falling).chan .a).config.divisor ∧
      hears41 = { bits := ((looped .mark falling).chan .a).config.characterBits 0x41 ++ [],
                  divisor := ((looped .mark falling).chan .a).config.divisor, after := .carries 0 } ∧
      samplesCanBe (looped .mark { falling with looped := some hears41 }) .a
        (((looped .mark falling).chan .a).config.completeAt true)
        (((looped .mark falling).chan .a).config.samples 0x40 false true) = false ∧
      (((withParity (looped .mark falling)).chan .a).config.samples 0x41 true false)[10]? = some false ∧
      hears41.bits.length * 2 < (2 * 10 + 1) * ((withParity (looped .mark falling)).chan .a).config.divisor ∧
      hears41.bits.length * 2 < ((withParity (looped .mark falling)).chan .a).config.completeAt true * 1 ∧
      ((looped (.char 0x41) falling).chan .b).config.divisor = ((looped (.char 0x41) falling).chan .a).config.divisor ∧
      ((looped (.char 0x41) falling).chan .b).lineBits = ((looped (.char 0x41) falling).chan .a).config.characterBits 0x41 ∧
      samplesCanBe (looped (.char 0x41) { falling with looped := some hears41 }) .a
        (((looped .mark falling).chan .a).config.completeAt true)
        (((looped .mark falling).chan .a).config.samples 0x41 false true) = true := by decide +kernel
theorem witness_GapsAndBreaksEndFrames :
    (receiving { Receiver.reset with state := .inFrame, frame := .dropped }).hears .a ∧
      ((receiving { Receiver.reset with state := .inFrame, frame := .dropped }).rx .a).lowWatch = none ∧
      ((receiving { Receiver.reset with state := .inFrame, frame := .dropped }).rx .a).input ≠ some false ∧
      inCharacter.hears .a ∧ (inCharacter.rx .a).lowWatch.isSome = true ∧ (inCharacter.rx .a).frame = .opened ∧
      (receiving { falling with state := .idle }).hears .a ∧
      ((receiving { falling with state := .idle }).rx .a).lowWatch.isSome = true ∧
      32 ≤ (queued (receiving { falling with state := .idle }) 32).cu.queue.length ∧
      (looped .mark (lowFrom hears41)).hears .a ∧ (looped .mark (lowFrom hears41)).ser.loop = true ∧
      1 ≤ ((looped .mark falling).chan .a).config.divisor ∧
      hears41 = { bits := ((looped .mark falling).chan .a).config.characterBits 0x41 ++ [],
                  divisor := ((looped .mark falling).chan .a).config.divisor, after := .carries 0 } := by decide +kernel
theorem witness_GapsAndBreaksEndFrames_in_the_loop :
    inCharacter.mayLastLow .a { stamp := { count := 7, generation := 0 }, byStartBit := true, looped := none } ∧
      (looped .low falling).mayLastLow .a
        { stamp := { count := 7, generation := 0 }, byStartBit := true,
          looped := some heardBreak } ∧
      ¬ (slowly 2 (looped .low falling)).mayLastLow .a
        { stamp := { count := 7, generation := 0 }, byStartBit := true, looped := some heardBreak } ∧
      ¬ (looped .mark (lowFrom hears41)).mayLastLow .a
        { stamp := { count := 7, generation := 0 }, byStartBit := true, looped := some hears41 } ∧
      (receiving Receiver.reset).mayStandAt .a true ∧ ¬ (looped .low Receiver.reset).mayStandAt .a true :=
  ⟨.inl rfl, .inr fun h e => (by
      cases e
      refine ⟨by decide +kernel, fun j hj => ?_⟩
      simp only [heardBreak, List.getElem?_replicate] at hj
      split at hj <;> simp at hj),
    fun h => (by
      obtain h | h := h
      · exact absurd h (by decide +kernel)
      · exact absurd (h heardBreak rfl).1 (by decide +kernel)),
    fun h => (by
      obtain h | h := h
      · exact absurd h (by decide +kernel)
      · exact absurd ((h hears41 rfl).2 1 (by decide +kernel)) (by decide +kernel)),
    .inl rfl, fun h => (by
      obtain h | h := h
      · exact absurd h (by decide +kernel)
      · exact Bool.noConfusion h)⟩
theorem witness_ReceiverResetAbandonsItsFrame :
    (withArg State.reset 2).portReady ∧ inCharacter.portReady ∧ inCharacter.biu.arg = channelCode .a := by decide +kernel
theorem witness_EdgeGroupsFillTheFreeSlots :
    (found (queued State.reset 31) [(0, .rising), (2, .rising)] 0).mainUp ∧
      (found (queued State.reset 31) [(0, .rising), (2, .rising)] 0).cu.queue.length + 1 = 32 ∧
      (found State.reset [(0, .rising)] 0).cu.queue.length + 32 = 32 ∧ State.reset.cu.droppedEv ≤ 255 := by decide +kernel
theorem witness_CapturePopAndFlush :
    (onPage 5).biu.page = 5 ∧ State.reset.portReady ∧ State.reset.cu.queue = [] ∧ (queued (window 2) 1).portReady ∧
      (queued (window 2) 1).cu.queue = [edgeRecord] ∧ ((window 2).cu.rings.get .a).start < 512 ∧
      heldBy .a (window 2).cu.window.toList = 2 ∧ (frameRecord 1).source = .frame .a ∧
      inCharacter.cu.opened.get .a = some (frameRecord 1) := by decide +kernel
theorem witness_CaptureDataReadsInOrder :
    (window 1).busReady ∧ (window 1).cu.window = some (frameRecord 2) ∧ (window 1).cu.readIndex < (frameRecord 2).length ∧
      (frameRecord 2).place = ((window 1).cu.rings.get .a).start ∧
      (frameRecord 2).length ≤ ((window 1).cu.rings.get .a).held.length ∧
      (frameRecord 2).length ≤ (window 2).cu.readIndex := by decide +kernel
theorem witness_TriggerCommandsFollowTheirChecks :
    (onPage 4).biu.page = 4 ∧ (withArg State.reset 8).portReady ∧ (8 : Nat) ≤ (withArg State.reset 8).biu.arg.toNat ∧
      (withArg State.reset 7).portReady ∧ (withArg State.reset 7).biu.arg.toNat = (7 : Fin 8).val ∧
      (stagedByte (stage 11 [1, 9, 0, 0, 0, 0, 0, 63, 0, 0, 1]) 1).toNat = 9 ∧
      (stagedByte (stage 11 [1, 1, 4, 0, 0, 0, 0, 63, 0, 0, 1]) 2).toNat = 4 := by decide +kernel
theorem witness_EdgeRecordIsJudgedAtItsClose :
    (found (edgeRule State.reset) [(0, .rising)] 0).mainUp ∧
      (found (edgeRule State.reset) [(0, .rising)] 0).evi.found.length = 1 ∧
      (found (queued (edgeRule State.reset) 31) [(0, .rising), (2, .falling)] 0).mainUp ∧
      (found (queued (edgeRule State.reset) 31) [(0, .rising), (2, .falling)] 0).cu.queue.length < 32 ∧
      32 ≤ (after .edgeGroup (found (queued (edgeRule State.reset) 31) [(0, .rising)] 0)).cu.queue.length ∧
      [((0 : Fin 4), EdgeDir.rising), (2, .falling)][1]? = some (2, .falling) ∧
      (found (edgeRule State.reset) [(0, .rising)] 0).cu.queue.length < 32 ∧
      ruleMatches (found (edgeRule State.reset) [(0, .rising)] 0)
        (freshRecord (.edge 0 .rising) { count := Config.endTime, generation := 0 } 0) 0 = true ∧
      (0 : BitVec 8) = (edgeRule State.reset).tb.generation ∧ (1 : BitVec 8) ≠ (edgeRule State.reset).tb.generation ∧
      Config.endTime < Config.endTime + 1 := by decide +kernel
theorem witness_FrameRecordMatchesByItsFirstBytes :
    (frameRecord 2).source = .frame .a ∧ (window 0).tu.rules[0].oneShot = false ∧
      ((window 0).cu.rings.get .a).start < 512 ∧ (frameRecord 2).place = (((window 0).cu.rings.get .a).start + 0) % 512 ∧
      0 + (frameRecord 2).length ≤ ((window 0).cu.rings.get .a).held.length ∧
      ({ frameRecord 1 with place := 1 } : CaptureRecord).place = (((window 0).cu.rings.get .a).start + 1) % 512 ∧
      1 + (frameRecord 1).length ≤ ((window 0).cu.rings.get .a).held.length ∧
      ((window 0).cu.rings.get .a).held.length ≤ 512 := by decide +kernel
theorem witness_NoticeCommandsAndLocations :
    (onPage 6).biu.page = 6 ∧ State.reset.portReady ∧ State.reset.niu.queue = [] ∧ State.reset.busReady ∧
      (after .edgeGroup (found (edgeRule State.reset) [(0, .rising)] 1)).portReady ∧
      (after .edgeGroup (found (edgeRule State.reset) [(0, .rising)] 1)).niu.queue ≠ [] := by decide +kernel
theorem witness_InterruptLineFollowsTheCauses : State.reset.mainUp := by decide +kernel
theorem witness_ReadCyclesAndResult :
    busy.busReady ∧ busy.au.inFlight.isSome = true ∧ 8 ≤ (onPage 8).biu.page.toNat := by decide +kernel
theorem witness_UnknownCodeIsBadCommand :
    State.reset.portReady ∧ commandCodes.contains 0x16 = false ∧ commandCodes.contains 0xFF = false := by decide +kernel
theorem witness_WriteCyclesReachTheirLocation :
    State.reset.busReady ∧ State.reset.biu.page = 0 ∧ (0x2B : Location).toNat = 16 + 27 ∧ (0x2C : Location).toNat = 16 + 28 ∧
      (0x21 : Location).toNat = 16 + 17 ∧ (0x1E : Location).toNat = 16 + 14 ∧ (0x13 : Location).toNat = 16 + 3 ∧
      (0x1A : Location).toNat = 16 + 10 ∧ (0x14 : Location).toNat = 16 + 4 ∧
      (after (.registerWrite .taken 0x01 8) State.reset).biu.page = 8 := by decide +kernel
theorem witness_BusyPortRefusesWithOverrun :
    busy.busReady ∧ busy.au.inFlight = some { command := .read, arg := 5, staging := Agenda.reset.staging } := by
  decide +kernel
theorem witness_BusIsIgnoredWhileMainDomainIsDown :
    (after (.mainPowerUp 1) down).mainUp ∧ (after (.mainPowerUp 1) down).power.skipCycles = 0 + 1 ∧
      (after (.mainPowerUp 3) down).power.skipCycles = 2 + 1 ∧
      ¬ down.mainUp ∧ ¬ (after .resetNAssert State.reset).mainUp := by decide +kernel
theorem witness_RefusedCommandsChangeNothing :
    State.reset.portReady ∧ completesAtOnce 0x10 = true ∧ completesAtOnce 0x81 = true := by decide +kernel

/-! Invariants: each is met by a state in which the front command is one that could break it. -/

theorem witness_EveryStepKeepsAgendaSound :
    AgendaSound ((armed lastOfFour 6000150).withFront .occurrence) ∧
      step ((armed lastOfFour 6000150).withFront .occurrence) = .next (after .occurrence (armed lastOfFour 6000150)) :=
  ⟨by constructor <;> decide +kernel, rfl⟩
theorem witness_EveryStepKeepsMessagesSound :
    MessagesSound ((sendingAt 0).withFront (.txCharacterEnd .a)) ∧
      step ((sendingAt 0).withFront (.txCharacterEnd .a)) = .next (after (.txCharacterEnd .a) (sendingAt 0)) :=
  ⟨⟨by constructor <;> decide +kernel, by constructor <;> decide +kernel, by decide +kernel, by decide +kernel, by decide +kernel,
    by decide +kernel⟩, rfl⟩
theorem witness_EveryStepKeepsCaptureSound :
    CaptureSound (inCharacter.withFront (.breakDetected .a)) ∧
      step (inCharacter.withFront (.breakDetected .a)) = .next (after (.breakDetected .a) inCharacter) :=
  ⟨⟨by decide +kernel, by decide +kernel,
    ⟨by decide +kernel, by decide +kernel, fun r h => (by cases h; rfl), by decide +kernel, by decide +kernel,
      ⟨fun _ => rfl, trivial⟩, by decide +kernel, by decide +kernel⟩,
    ⟨by decide +kernel, by decide +kernel, fun r h => (by cases h), by decide +kernel, by decide +kernel, trivial,
      by decide +kernel, by decide +kernel⟩⟩, rfl⟩
theorem witness_EveryStepKeepsRegistersSound :
    TimeSound (runningAt Config.endTime) ∧ NoticesSound State.reset ∧ StoreSound (sendingAt 2047) ∧ LinesSound pulsed ∧
      PowerSound down ∧ step (runningAt Config.endTime) = .next (oscillatorPeriod (runningAt Config.endTime)) ∧
      step (pulsed.withFront (.tick 0 prompt)) = .next (after (.tick 0 prompt) pulsed) :=
  ⟨by decide +kernel, by decide +kernel, by decide +kernel, by decide +kernel, ⟨.inl (by decide +kernel), by decide +kernel, fun _ => by decide +kernel⟩,
    rfl, rfl⟩

end Sys2Proof.Tests
end

section
/-! SUPPORT. What several families of statements rest on: the answer of a command that completes at once (R187, R188), and the
bytes of a page as its fields in order (R194). -/

namespace Sys2Proof.Machine

/-! ## The command port -/

/-- A command that completes at once leaves what its effect makes of the accepted state, with its result in RESULT and CMD_DONE
set (R187, R188). The CMD_DONE that its acceptance has cleared does not outlive the event. -/
theorem atOnce_answered {s t : State} {r : ResultCode} {f : State → State × ResultCode} (h : s.portReady)
    (hf : f { s with biu := { s.biu with cmdDone := false } } = ({ t with biu := { t.biu with cmdDone := false } }, r)) :
    atOnce s f = t.answered r := by
  rw [atOnce_idle s f h.1 h.2, hf]
  rfl

/-! ## Pages made of adjacent fields (R194) -/

/-- Each field of a table begins where the one before it ends, the first at `start`. -/
def Adjacent : Nat → List (Nat × Nat × Nat) → Prop
  | _, [] => True
  | start, (first, bytes, _) :: rest => first = start ∧ Adjacent (start + bytes) rest

theorem leBytes_one (n : Nat) : leBytes 1 n = [BitVec.ofNat 8 n] := rfl

theorem leBytes_length (k n : Nat) : (leBytes k n).length = k := by
  induction k generalizing n with
  | zero => rfl
  | succ k ih => simp [leBytes, ih]

/-- Adjacent fields show their bytes one after the other. -/
theorem fieldByte_adjacent {start : Nat} {fields : List (Nat × Nat × Nat)} (h : Adjacent start fields) (i : Nat) :
    fieldByte fields (start + i) = (fields.flatMap fun f => leBytes f.2.1 f.2.2).getD i 0 := by
  induction fields generalizing start i with
  | nil => rfl
  | cons f rest ih =>
    obtain ⟨first, bytes, value⟩ := f
    obtain ⟨rfl, hrest⟩ := h
    have hlen := leBytes_length bytes value
    rw [List.flatMap_cons, fieldByte]
    dsimp only
    by_cases hi : i < bytes
    · rw [if_pos (by omega), List.getD_append _ _ _ _ (by omega), leBytes_getD, if_pos hi, Nat.add_sub_cancel_left]
    · rw [if_neg (by omega), List.getD_append_right _ _ _ _ (by omega), hlen, ← ih hrest]
      congr 1
      omega

/-- A page shows a table of adjacent fields where its bytes are those of the fields in order. -/
theorem pageShows_of_adjacent {s : State} {fields : List (Nat × Nat × Nat)} (h : Adjacent 16 fields)
    (hb : s.pageBytes = fields.flatMap fun f => leBytes f.2.1 f.2.2) : s.pageShows fields :=
  pageShows_of_bytes s fields fun i => by rw [hb, fieldByte_adjacent h]

/-- A byte of flags holds each flag in its bit. -/
theorem flagsByte_getLsbD (l : List Bool) (i : Nat) (hi : i < 8) : (flagsByte l).getLsbD i = l.getD i false := by
  induction l generalizing i with
  | nil => simp [flagsByte]
  | cons b rest ih =>
    have hb : (bitByte b).getLsbD i = (decide (i = 0) && b) := by cases b <;> simp [bitByte, hi]
    rw [flagsByte, BitVec.getLsbD_or, BitVec.getLsbD_shiftLeft, hb]
    cases i with
    | zero => simp
    | succ i => simp [hi, ih i (by omega)]

end Sys2Proof.Machine
end

section
/-! SUPPORT. The time commands that set the count (R9 to R14), each outcome by the branch of the command's own check that gives
it. -/

namespace Sys2Proof.Machine

/-! ## Time loads (R9, R12, R13) -/

theorem exec_timeLoadCal_valid {s : State} (h : s.portReady) (hv : (stagedCalendar s.tb.staging).valid = true) :
    exec .timeLoadCal s =
      .next (({ s with tb := loadTime (stagedCalendar s.tb.staging).toTicks s.tb }).answered .ok) :=
  congrArg Host.Outcome.next (atOnce_answered h (if_pos hv))

theorem exec_timeLoadCal_invalid {s : State} (h : s.portReady) (hv : (stagedCalendar s.tb.staging).valid = false) :
    exec .timeLoadCal s = .next (s.answered .badDate) :=
  congrArg Host.Outcome.next (atOnce_answered h (if_neg (Bool.eq_false_iff.1 hv)))

theorem exec_timeLoadCount_inRange {s : State} (h : s.portReady) (hc : stagedCount s.tb.staging ≤ Config.endTime) :
    exec .timeLoadCount s = .next (({ s with tb := loadTime (stagedCount s.tb.staging) s.tb }).answered .ok) :=
  congrArg Host.Outcome.next (atOnce_answered h (if_neg (Nat.not_lt.2 hc)))

theorem exec_timeLoadCount_pastEnd {s : State} (h : s.portReady) (hc : Config.endTime < stagedCount s.tb.staging) :
    exec .timeLoadCount s = .next (s.answered .outOfRange) :=
  congrArg Host.Outcome.next (atOnce_answered h (if_pos hc))

/-! ## Time steps (R14) -/

theorem exec_timeStep_inRange {s : State} (h : s.portReady) {n : Nat}
    (hn : (n : Int) = s.tb.count + stagedDelta s.tb.staging * 4096) (hr : n ≤ Config.endTime) :
    exec .timeStep s =
      .next (({ s with tb := { s.tb with count := n, generation := s.tb.generation + 1 } }).answered .ok) := by
  refine congrArg Host.Outcome.next (atOnce_answered h ?_)
  have hin : ¬ ((n : Int) < 0 ∨ (Config.endTime : Int) < n) := by omega
  simp only [← hn, if_neg hin, Int.toNat_natCast]

theorem exec_timeStep_outOfRange {s : State} (h : s.portReady)
    (hr : (s.tb.count : Int) + stagedDelta s.tb.staging * 4096 < 0 ∨
      (Config.endTime : Int) < s.tb.count + stagedDelta s.tb.staging * 4096) :
    exec .timeStep s = .next (s.answered .outOfRange) :=
  congrArg Host.Outcome.next (atOnce_answered h (if_pos hr))

/-- Settles O10: one lemma for each outcome of the three commands. -/
theorem timeLoadsAndStepsSetTheCount : Obligations.TimeLoadsAndStepsSetTheCount := by
  intro s h
  refine ⟨exec_timeLoadCal_valid h, exec_timeLoadCal_invalid h, exec_timeLoadCount_inRange h,
    exec_timeLoadCount_pastEnd h, ?_⟩
  rintro _ rfl
  exact ⟨fun _ => exec_timeStep_inRange h, exec_timeStep_outOfRange h⟩

end Sys2Proof.Machine
end

section
/-! SUPPORT. The Dispatch Unit's tick that comes late (R71, R72, log 5), LINE_READ (R78), and what the host and the pins see of
the lines (R68, R77, R196). -/

namespace Sys2Proof.Machine

/-! ## The LINES page and LINE_LEVEL (R77, R78, R196) -/

theorem exists_eq_vector_eight {α : Type} : ∀ v : Vector α 8, ∃ a b c d e f g h, v = #v[a, b, c, d, e, f, g, h]
  | ⟨⟨[a, b, c, d, e, f, g, h]⟩, _⟩ => ⟨a, b, c, d, e, f, g, h, rfl⟩

theorem lineFields_adjacent (lines : Vector Line 8) : Adjacent 16 (lineFields lines) := by
  obtain ⟨a, b, c, d, e, f, g, h, rfl⟩ := exists_eq_vector_eight lines
  simp [lineFields, Adjacent]

/-- Where each element gives its bytes, its number in the list is of no account. -/
theorem flatMap_zipIdx_fst {α β : Type} (l : List α) (f : α → List β) :
    (l.zipIdx.flatMap fun p => f p.1) = l.flatMap f := by
  rw [← List.flatMap_map Prod.fst f, List.zipIdx_map_fst]

/-- The LINES page is the bytes of its fields: the flags, the ticks of each line's return, the code of each line's source. -/
theorem linesPage_eq_fields (lines : Vector Line 8) :
    linesPage lines = (lineFields lines).flatMap fun f => leBytes f.2.1 f.2.2 := by
  have hticks := flatMap_zipIdx_fst lines.toList fun l => leBytes 2 (l.pending.elim 0 PendingReturn.remaining)
  have hsources : (lines.toList.zipIdx.flatMap fun p => [p.1.source.code]) = lines.toList.map fun l => l.source.code :=
    (flatMap_zipIdx_fst lines.toList fun l => [l.source.code]).trans List.map_eq_flatMap.symm
  simp only [linesPage, lineFields, List.flatMap_append, List.flatMap_cons, List.flatMap_map, leBytes_one,
    BitVec.ofNat_toNat, BitVec.setWidth_eq, ← flagsByte_eq, hticks, hsources, List.cons_append, List.nil_append]

theorem lineLevel_getLsbD (s : State) (n : Fin 8) : (s.readLocation 0x0E).getLsbD n = s.du.lines[n].level := by
  calc (s.readLocation 0x0E).getLsbD n
      = (flagsByte (s.du.lines.toList.map Line.level)).getLsbD n := rfl
    _ = (s.du.lines.toList.map Line.level).getD n false := flagsByte_getLsbD _ _ n.isLt
    _ = s.du.lines[n].level := by simp

theorem dlPin_eq (s : State) (n : Fin 8) :
    s.dlPin n = if s.power.vmainGood = true ∧ s.du.lines[n].driven = true then some s.du.lines[n].level else none := by
  simp [State.dlPin]

theorem linesPage_shows {s : State} (h : s.biu.page = 7) : s.pageShows (lineFields s.du.copy) := by
  refine pageShows_of_adjacent (lineFields_adjacent _) ?_
  rw [← linesPage_eq_fields]
  simp [State.pageBytes, h]

/-! ## A tick on its way (R71, R72, R103; log 5) -/

theorem occurrenceDue_iff (s : State) : s.occurrenceDue = true ↔ ∃ i rest, s.takes i rest := by
  cases h : s.au.dueList <;> simp [State.occurrenceDue, State.takes, State.mainAlive, h, and_assoc]

theorem tickMayWait_iff (s : State) : s.tickMayWait = true ↔ s.ticksMayWait := by
  rw [State.ticksMayWait, ← occurrenceDue_iff]
  unfold State.tickMayWait
  split <;> simp_all

theorem Line.takeTick_of_none {l : Line} (h : l.pending = none) : l.takeTick = l := by simp [Line.takeTick, h]

theorem Line.takeTick_last {l : Line} {v : Bool} {r : Nat} (h : l.pending = some { level := v, remaining := r })
    (hr : r ≤ 1) :
    l.takeTick = { l with level := v, pending := none } := by
  simp [Line.takeTick, h, hr]

theorem Line.takeTick_counts {l : Line} {v : Bool} {r : Nat} (h : l.pending = some { level := v, remaining := r })
    (hr : 2 ≤ r) :
    l.takeTick = { l with pending := some { level := v, remaining := r - 1 } } := by
  simp [Line.takeTick, h, Nat.not_le.2 hr]

/-- A transmitter takes a tick that is on its way to it: its elapsed count rises while its queue is not empty (R103). -/
theorem Transmitter.settle_eq (t : Transmitter) : t.settle =
    if t.tickOwed then { t with
      elapsed := if t.queue = [] then t.elapsed else min (t.elapsed + 1) 65535, tickOwed := false } else t := by
  unfold Transmitter.settle Transmitter.takeTick
  by_cases hq : t.queue = [] <;> simp [hq]

/-- A tick taken by the Dispatch Unit changes its lines alone. -/
theorem DispatchUnit.settle_frame (d : DispatchUnit) : d.settle = { d with lines := d.settle.lines, tickOwed := false } := by
  cases h : d.tickOwed
  · rw [settle_lines_not_owed d h, ← h]
  · simp [DispatchUnit.settle, DispatchUnit.takeTick, h]

theorem DispatchUnit.settle_lines_owed (d : DispatchUnit) (h : d.tickOwed = true) (n : Fin 8) :
    d.settle.lines[n] = d.lines[n].takeTick := by
  simp [DispatchUnit.settle, DispatchUnit.takeTick, h]

/-- Once a tick has been taken, nothing is left to take. -/
theorem DispatchUnit.settle_settle (d : DispatchUnit) : d.settle.settle = d.settle :=
  settle_lines_not_owed _ (settle_tickOwed d)

/-- Where a tick may be on its way still, `bringTicks` leaves it so. -/
theorem bringTicks_waits {s : State} (h : s.ticksMayWait) : bringTicks s = s := if_pos ((tickMayWait_iff s).2 h)

/-- Else every block has taken it. -/
theorem bringTicks_brings {s : State} (h : ¬ s.ticksMayWait) : bringTicks s = { s with
    du := s.du.settle
    ser := { s.ser with chans := { a := { s.chan .a with tx := (s.tx .a).settle }
                                   b := { s.chan .b with tx := (s.tx .b).settle } } } } :=
  if_neg (mt (tickMayWait_iff s).1 h)

/-! ## PULSE_END (R71, R72) -/

/-- The part after PULSE_END with the main domain up: the Dispatch Unit takes its tick in any case, a transmitter where no row
keeps the tick waiting. -/
def State.pulseEnded (s : State) : State := bringTicks { s with du := s.du.settle }

theorem exec_pulseEnd {s : State} (h : s.mainUp) : exec .pulseEnd s = .next s.pulseEnded :=
  congrArg Host.Outcome.next (whenMain_up s _ h)

theorem pulseEnded_of_ticksTaken {s : State} (h : s.ticksTaken) : s.pulseEnded = s := by
  obtain ⟨hdu, ha, hb⟩ := h
  rw [State.pulseEnded, settle_lines_not_owed _ hdu]
  exact bringTicks_taken s hdu fun | .a => ha | .b => hb

theorem pulseEnded_waits {s : State} (h : s.ticksMayWait) : s.pulseEnded = { s with du := s.du.settle } :=
  bringTicks_waits (s := { s with du := s.du.settle }) h

theorem pulseEnded_brings {s : State} (h : ¬ s.ticksMayWait) : s.pulseEnded = { s with
    du := s.du.settle
    ser := { s.ser with chans := { a := { s.chan .a with tx := (s.tx .a).settle }
                                   b := { s.chan .b with tx := (s.tx .b).settle } } } } := by
  rw [State.pulseEnded, bringTicks_brings (s := { s with du := s.du.settle }) h, DispatchUnit.settle_settle]
  rfl

/-- PULSE_END changes the lines, what is on its way to them, and the transmitters. -/
theorem pulseEnded_frame (s : State) : s.pulseEnded =
    { s with du := { s.du with lines := s.du.settle.lines, tickOwed := false }, ser := s.pulseEnded.ser } := by
  rw [← DispatchUnit.settle_frame]
  by_cases h : s.ticksMayWait
  · rw [pulseEnded_waits h]
  · rw [pulseEnded_brings h]

/-! ## LINE_READ (R78) -/

theorem exec_lineRead {s : State} (h : s.portReady) :
    exec .lineRead s = .next (({ s with du := { s.du with copy := s.du.lines } }).answered .ok) :=
  congrArg Host.Outcome.next (atOnce_answered h rfl)

/-- Settles O26: the effect of PULSE_END on the Dispatch Unit and on the transmitters apart, then what the host and the pins
see. -/
theorem pulseEndAndLineRead : Obligations.PulseEndAndLineRead := by
  intro s
  refine ⟨fun h htaken => ?_,
    fun h => ⟨s.pulseEnded, s.du.settle.lines, exec_pulseEnd h, pulseEnded_frame s,
      fun hw => ?_, fun hw taken htaken => ?_, fun hd => ?_, fun hd n => ?_⟩,
    exec_lineRead, linesPage_shows, fun _ => rfl, rfl, rfl, lineLevel_getLsbD s, dlPin_eq s⟩
  · rw [exec_pulseEnd h, pulseEnded_of_ticksTaken htaken]
  · rw [pulseEnded_waits hw]
  · rw [pulseEnded_brings hw, htaken, htaken, ← Transmitter.settle_eq, ← Transmitter.settle_eq]
  · rw [settle_lines_not_owed _ hd]
  · rw [DispatchUnit.settle_lines_owed _ hd]
    exact ⟨Line.takeTick_of_none, fun _ _ => Line.takeTick_last, fun _ _ => Line.takeTick_counts⟩

end Sys2Proof.Machine
end

section
/-! SUPPORT. A page whose table of fields does not list them in the order of their locations, or leaves locations out (R194). -/

namespace Sys2Proof.Machine

/-! ## Pages whose fields stand in any order (R194) -/

/-- Two fields have no location in common. -/
def Apart (f g : Nat × Nat × Nat) : Prop := f.1 + f.2.1 ≤ g.1 ∨ g.1 + g.2.1 ≤ f.1

theorem Apart.symm {f g : Nat × Nat × Nat} (h : Apart f g) : Apart g f := Or.symm h

theorem Adjacent.le_first {start : Nat} {fields : List (Nat × Nat × Nat)} (h : Adjacent start fields) :
    ∀ f ∈ fields, start ≤ f.1 := by
  induction fields generalizing start with
  | nil => simp
  | cons g rest ih =>
    obtain ⟨rfl, hrest⟩ := h
    exact List.forall_mem_cons.2 ⟨Nat.le_refl _, fun f hf => Nat.le_trans (Nat.le_add_right _ _) (ih hrest f hf)⟩

theorem Adjacent.apart {start : Nat} {fields : List (Nat × Nat × Nat)} (h : Adjacent start fields) :
    fields.Pairwise Apart := by
  induction fields generalizing start with
  | nil => exact .nil
  | cons g rest ih =>
    obtain ⟨rfl, hrest⟩ := h
    exact .cons (fun f hf => .inl (hrest.le_first f hf)) (ih hrest)

/-- Where no two fields have a location in common, the order of a table is of no account. -/
theorem fieldByte_perm {xs ys : List (Nat × Nat × Nat)} (hp : xs.Perm ys) (h : xs.Pairwise Apart) (loc : Nat) :
    fieldByte xs loc = fieldByte ys loc := by
  induction hp with
  | nil => rfl
  | cons f _ ih => rw [fieldByte, fieldByte, ih h.of_cons]
  | swap f g rest =>
    obtain ⟨_, _, _⟩ := f
    obtain ⟨_, _, _⟩ := g
    have hgf := List.rel_of_pairwise_cons h List.mem_cons_self
    simp only [Apart] at hgf
    grind [fieldByte]
  | trans hxy _ ihx ihy => rw [ihx h, ihy (hxy.pairwise h Apart.symm)]

/-- A location that no field lists reads 0, and so does one in a field of the value 0. -/
theorem fieldByte_append_blank (fields : List (Nat × Nat × Nat)) {blank : List (Nat × Nat × Nat)}
    (h : ∀ f ∈ blank, f.2.2 = 0) (loc : Nat) : fieldByte (fields ++ blank) loc = fieldByte fields loc := by
  induction fields with
  | cons f rest ih => simp only [List.cons_append, fieldByte, ih]
  | nil =>
    induction blank with
    | nil => rfl
    | cons f rest ih =>
      obtain ⟨first, bytes, value⟩ := f
      obtain ⟨rfl, hrest⟩ : value = 0 ∧ ∀ f ∈ rest, f.2.2 = 0 := List.forall_mem_cons.1 h
      have hrest0 : fieldByte rest loc = 0 := ih hrest
      simp [fieldByte, hrest0]

/-- A page shows a table where its bytes are those of the table's fields and of some of the value 0, set in the order of their
locations. -/
theorem pageShows_of_perm {s : State} {fields blank inOrder : List (Nat × Nat × Nat)} (hblank : ∀ f ∈ blank, f.2.2 = 0)
    (hp : inOrder.Perm (fields ++ blank)) (h : Adjacent 16 inOrder)
    (hb : s.pageBytes = inOrder.flatMap fun f => leBytes f.2.1 f.2.2) : s.pageShows fields := fun loc hl => by
  rw [pageShows_of_adjacent h hb loc hl, fieldByte_perm hp h.apart, fieldByte_append_blank fields hblank]

/-! ## Codes and flags as bytes (R194) -/

/-- A code that may be absent reads 0 then. -/
theorem optionalCode_eq {α : Type} (code : α → Byte) (x : Option α) :
    x.elim 0 code = BitVec.ofNat 8 (x.elim 0 fun a => (code a).toNat) := by
  cases x <;> simp

theorem optionalByte_eq {n : Nat} (x : Option (Fin n)) : optionalByte x = BitVec.ofNat 8 (x.elim 255 Fin.val) := by
  cases x <;> rfl

theorem occurrenceFlags_eq (refused : Option RefuseReason) (chainRefused : Bool) :
    occurrenceFlags refused chainRefused = BitVec.ofNat 8 (occurrenceBits refused chainRefused) := by
  cases chainRefused <;> rcases refused with _ | _ | _ | _ <;> rfl

theorem notifyByte_eq (n : Notify) :
    n.byte = BitVec.ofNat 8 (bitsValue [n.onFire, n.onMiss, n.onSpent, n.onTxEnd]) := by
  obtain ⟨fire, miss, spent, txEnd⟩ := n
  revert fire miss spent txEnd
  decide

end Sys2Proof.Machine
end

section
/-! SUPPORT. The ENTRY page (R196): the last occurrence stands before the spent reason, and the generation of its pair behind
its outcome. -/

namespace Sys2Proof.Machine

/-- The fields of the last occurrence in the order of their locations, those of the value 0 included. -/
def lastFieldsInOrder : Option LastOccurrence → List (Nat × Nat × Nat)
  | none => [(0x30, 12, 0)]
  | some o =>
    [(0x30, 1, 1), (0x31, 6, o.due), (0x37, 2, o.lateness)] ++
    (match o.outcome with
      | .performed refused chainRefused => [(0x39, 1, 1), (0x3A, 1, occurrenceBits refused chainRefused)]
      | .missed => [(0x39, 1, 2), (0x3A, 1, 0)]) ++
    [(0x3B, 1, o.generation.toNat)]

/-- The locations of the last occurrence that the table of the page leaves out. -/
def lastBlank : Option LastOccurrence → List (Nat × Nat × Nat)
  | none => [(0x30, 12, 0)]
  | some ⟨_, _, _, .performed _ _⟩ => []
  | some ⟨_, _, _, .missed⟩ => [(0x3A, 1, 0)]

/-- The fields of the result window in the order of their locations: those up to the missed count as the table lists them, then
the last occurrence, then the spent reason. -/
def entryFieldsInOrder (w : ResultWindow) : List (Nat × Nat × Nat) :=
  (entryFields w).take 17 ++ (lastFieldsInOrder w.image.entry.last ++
    [(0x3C, 1, w.image.entry.spent.elim 0 fun r => r.code.toNat)])

theorem lastBlank_value (last : Option LastOccurrence) : ∀ f ∈ lastBlank last, f.2.2 = 0 := by
  rcases last with _ | ⟨_, _, _, _ | _⟩ <;> simp [lastBlank]

theorem entryFieldsInOrder_adjacent (w : ResultWindow) : Adjacent 16 (entryFieldsInOrder w) := by
  unfold entryFieldsInOrder
  generalize w.image.entry.last = last
  rcases last with _ | ⟨_, _, _, _ | _⟩ <;> simp [entryFields, lastFieldsInOrder, Adjacent]

/-- The table lists the generation before the outcome. -/
theorem lastFieldsInOrder_perm (w : ResultWindow) :
    (lastFieldsInOrder w.image.entry.last).Perm ((entryFields w).drop 18 ++ lastBlank w.image.entry.last) := by
  have generationMoved (a b c d e f : Nat × Nat × Nat) : [a, b, c, d, e, f].Perm [a, b, c, f, d, e] :=
    (List.perm_append_comm (l₁ := [d, e]) (l₂ := [f])).append_left [a, b, c]
  obtain ⟨slot, state, entry⟩ := w
  rcases entry with ⟨due, period, repeats, remaining, tolerance, setMask, clearMask, pulseWidth, message, channel, notify,
    chainTarget, chainDelay, fired, missed, _ | ⟨_, _, _, _ | _⟩, spent⟩
  · rfl
  · exact generationMoved ..
  · exact generationMoved ..

/-- The table lists the spent reason before the last occurrence. -/
theorem entryFieldsInOrder_perm (w : ResultWindow) :
    (entryFieldsInOrder w).Perm (entryFields w ++ lastBlank w.image.entry.last) := by
  have hlast : (lastFieldsInOrder w.image.entry.last ++ [(0x3C, 1, w.image.entry.spent.elim 0 fun r => r.code.toNat)]).Perm
      ((entryFields w).drop 17 ++ lastBlank w.image.entry.last) :=
    List.perm_append_comm.trans ((lastFieldsInOrder_perm w).cons _)
  refine (hlast.append_left _).trans ?_
  rw [← List.append_assoc, List.take_append_drop]

theorem lastBytes_eq_fields (last : Option LastOccurrence) :
    lastBytes last = (lastFieldsInOrder last).flatMap fun f => leBytes f.2.1 f.2.2 := by
  rcases last with _ | ⟨due, lateness, generation, ⟨refused, chainRefused⟩ | _⟩
  · rfl
  · simp [lastBytes, lastFieldsInOrder, leBytes_one, occurrenceFlags_eq]
  · simp [lastBytes, lastFieldsInOrder, leBytes_one]

theorem entryPage_eq_fields (w : ResultWindow) :
    entryPage w = (entryFieldsInOrder w).flatMap fun f => leBytes f.2.1 f.2.2 := by
  simp only [entryPage, optionalByte_eq, notifyByte_eq, lastBytes_eq_fields, optionalCode_eq SpentReason.code]
  simp [entryFieldsInOrder, entryFields, leBytes_one]

theorem entryPage_shows {s : State} (h : s.biu.page = 0) : s.pageShows (entryFields s.au.window) := by
  refine pageShows_of_perm (lastBlank_value _) (entryFieldsInOrder_perm _) (entryFieldsInOrder_adjacent _) ?_
  rw [← entryPage_eq_fields]
  simp [State.pageBytes, h]

end Sys2Proof.Machine
end

section
/-! SUPPORT. The completion of an agenda command (R27, R28): what is decided of the copied ARG, and ENTRY_READ, ENTRY_RELEASE and
AGENDA_CLEAR (R32, R34, R36). -/

namespace Sys2Proof.Machine

/-! ## The completion -/

/-- The command in flight completes with what is decided of it, and the port is IDLE (R27, R188). -/
theorem exec_agendaCommandCompletion {s : State} {f : InFlight} (h : s.mainUp) (hf : s.au.inFlight = some f) :
    exec .agendaCommandCompletion s =
      .next (({ s with au := { (decideAgenda f s.tb.count s.au).1 with inFlight := none } }).answered
        (decideAgenda f s.tb.count s.au).2) := by
  refine congrArg Host.Outcome.next ((whenMain_up s _ h).trans ?_)
  rw [completeAgenda, hf]
  rfl

/-- The same, where the decision is known. -/
theorem exec_agendaCommandCompletion_of_decided {s : State} {f : InFlight} {au : Agenda} {code : ResultCode} (h : s.mainUp)
    (hf : s.au.inFlight = some f) (hd : decideAgenda f s.tb.count s.au = (au, code)) :
    exec .agendaCommandCompletion s = .next (({ s with au := { au with inFlight := none } }).answered code) := by
  rw [exec_agendaCommandCompletion h hf, hd]

/-! ## The slot number (R28) -/

theorem slotOfArg_below {arg : Byte} {i : Fin 64} (h : arg.toNat = i.val) : slotOfArg arg = some i := by
  rw [slotOfArg, dif_pos (h ▸ i.isLt)]
  exact congrArg some (Fin.ext h)

theorem slotOfArg_from_64 {arg : Byte} (h : 64 ≤ arg.toNat) : slotOfArg arg = none := dif_neg (Nat.not_lt.2 h)

/-- Every command but AGENDA_CLEAR names a slot, and a number of 64 to 255 names none (R28). -/
theorem decideAgenda_badArg {f : InFlight} (count : Nat) (au : Agenda) (hc : f.command ≠ .clear) (ha : 64 ≤ f.arg.toNat) :
    decideAgenda f count au = (au, .badArg) := by
  cases hcmd : f.command with
  | clear => exact absurd hcmd hc
  | load | read | release | armAt | armIn | disarm => simp [decideAgenda, hcmd, slotOfArg_from_64 ha]

/-! ## The decisions on a slot -/

section
variable {f : InFlight} {i : Fin 64} (count : Nat) (au : Agenda)

theorem decideAgenda_load (hc : f.command = .load) (hi : f.arg.toNat = i.val) :
    decideAgenda f count au = decideLoad i f.staging au := by
  simp [decideAgenda, hc, slotOfArg_below hi]

theorem decideAgenda_read (hc : f.command = .read) (hi : f.arg.toNat = i.val) :
    decideAgenda f count au = ({ au with window := { slot := i, image := au.slots[i] } }, .ok) := by
  simp [decideAgenda, hc, slotOfArg_below hi]

theorem decideAgenda_release (hc : f.command = .release) (hi : f.arg.toNat = i.val) :
    decideAgenda f count au = decideRelease i au := by
  simp [decideAgenda, hc, slotOfArg_below hi]

theorem decideAgenda_clear (hc : f.command = .clear) :
    decideAgenda f count au = ({ au with slots := Vector.replicate 64 Slot.freed, dueList := [] }, .ok) := by
  simp [decideAgenda, hc]

end

/-! ## The other slots -/

theorem putSlot_slots_other {i j : Fin 64} (h : j ≠ i) (x : Slot) (au : Agenda) :
    (putSlot i x au).slots[j] = au.slots[j] :=
  Vector.getElem_set_ne i.isLt j.isLt fun e => h (Fin.ext e.symm)

theorem decideLoad_slots_other {i j : Fin 64} (h : j ≠ i) (st : Vector Byte 28) (au : Agenda) :
    (decideLoad i st au).1.slots[j] = au.slots[j] := by
  unfold decideLoad
  split
  · rfl
  · split
    · split_ifs
      · rfl
      · rfl
      · rfl
      · exact putSlot_slots_other h _ au
    · rfl

theorem decideRelease_slots_other {i j : Fin 64} (h : j ≠ i) (au : Agenda) :
    (decideRelease i au).1.slots[j] = au.slots[j] := by
  unfold decideRelease
  split_ifs
  · rfl
  · exact putSlot_slots_other h _ au

/-! ## ENTRY_READ, ENTRY_RELEASE and AGENDA_CLEAR (R32, R34, R36) -/

section
variable {s : State} {f : InFlight} {i : Fin 64}

theorem exec_read_completes (h : s.mainUp) (hf : s.au.inFlight = some f) (hc : f.command = .read)
    (hi : f.arg.toNat = i.val) :
    exec .agendaCommandCompletion s =
      .next (({ s with au := { s.au with
        window := { slot := i, image := s.au.slots[i] }, inFlight := none } }).answered .ok) :=
  exec_agendaCommandCompletion_of_decided h hf (decideAgenda_read _ _ hc hi)

theorem exec_release_frees (h : s.mainUp) (hf : s.au.inFlight = some f) (hc : f.command = .release)
    (hi : f.arg.toNat = i.val) (hs : s.au.slots[i].state ≠ .armed) :
    exec .agendaCommandCompletion s =
      .next (({ s with au := { s.au with slots := s.au.slots.set i Slot.freed, inFlight := none } }).answered .ok) :=
  exec_agendaCommandCompletion_of_decided h hf ((decideAgenda_release _ _ hc hi).trans (if_neg hs))

theorem exec_release_finds_armed (h : s.mainUp) (hf : s.au.inFlight = some f) (hc : f.command = .release)
    (hi : f.arg.toNat = i.val) (hs : s.au.slots[i].state = .armed) :
    exec .agendaCommandCompletion s =
      .next (({ s with au := { s.au with inFlight := none } }).answered .badState) :=
  exec_agendaCommandCompletion_of_decided h hf ((decideAgenda_release _ _ hc hi).trans (if_pos hs))

theorem exec_clear_completes (h : s.mainUp) (hf : s.au.inFlight = some f) (hc : f.command = .clear) :
    exec .agendaCommandCompletion s =
      .next (({ s with au := { s.au with
        slots := Vector.replicate 64 Slot.freed, dueList := [], inFlight := none } }).answered .ok) :=
  exec_agendaCommandCompletion_of_decided h hf (decideAgenda_clear _ _ hc)

end

/-- Settles O17: the layout of the page, then one lemma for each outcome of the three commands. -/
theorem entryReadReleaseAndClear : Obligations.EntryReadReleaseAndClear := by
  refine ⟨fun _ => entryPage_shows, rfl, rfl, rfl, rfl, fun s f h hf => ⟨fun i hi => ⟨?_, ?_, ?_⟩, fun hc => ?_⟩⟩
  · exact fun hc => exec_read_completes h hf hc hi
  · exact fun hc => exec_release_frees h hf hc hi
  · exact fun hc => exec_release_finds_armed h hf hc hi
  · exact ⟨_, exec_clear_completes h hf hc, fun j => Vector.getElem_replicate j.isLt⟩

/-- Settles O15: the bad slot number before every other check, then the three commands on a slot, then AGENDA_CLEAR, whose
decision does not read ARG. -/
theorem badSlotNumberIsBadArg : Obligations.BadSlotNumberIsBadArg := by
  intro s f h hf
  refine ⟨fun hc ha => ?_, fun hc _ i hi => ⟨_, exec_agendaCommandCompletion h hf, fun j hj => ?_, fun hr => ?_⟩,
    fun hc arg => ?_⟩
  · have hclear : f.command ≠ .clear := by rintro e; simp [e] at hc
    exact exec_agendaCommandCompletion_of_decided h hf (decideAgenda_badArg _ _ hclear ha)
  · show (decideAgenda f s.tb.count s.au).1.slots[j] = s.au.slots[j]
    obtain hc | hc | hc := hc
    · rw [decideAgenda_load _ _ hc hi.symm, decideLoad_slots_other hj]
    · rw [decideAgenda_read _ _ hc hi.symm]
    · rw [decideAgenda_release _ _ hc hi.symm, decideRelease_slots_other hj]
  · show (decideAgenda f s.tb.count s.au).1.window.slot = i
    rw [decideAgenda_read _ _ hr hi.symm]
  · have hcleared := exec_clear_completes (f := { f with arg := arg })
      (s := { s with au := { s.au with inFlight := some { f with arg := arg } } }) h rfl hc
    exact hcleared.trans (exec_clear_completes h hf hc).symm

end Sys2Proof.Machine
end

section
/-! SUPPORT. The slots and the due list as a slot is armed that is not on the list (R39, R40, R43). -/

namespace Sys2Proof.Machine

/-- The due list holds the ARMED slots and no others, in its order (R20, R39). -/
structure DueListSound (au : Agenda) : Prop where
  ordered : au.dueList.Pairwise (DueBefore au.slots)
  listed : ∀ i : Fin 64, i ∈ au.dueList ↔ au.slots[i].state = .armed

theorem AgendaSound.dueListSound {s : State} (h : AgendaSound s) : DueListSound s.au := ⟨h.ordered, h.listed⟩

theorem armSlot_slots_same (i : Fin 64) (due : Nat) (au : Agenda) :
    (armSlot i due au).slots[i] = { state := .armed, entry := { au.slots[i].entry with due := due } } := by
  simp

theorem armSlot_slots_other {i j : Fin 64} (h : j ≠ i) (due : Nat) (au : Agenda) :
    (armSlot i due au).slots[j] = au.slots[j] :=
  Vector.getElem_set_ne i.isLt j.isLt fun e => h (Fin.ext e.symm)

/-- Slots that a change leaves as they were stand in the order they stood in. -/
theorem pairwise_dueBefore_congr {xs ys : Vector Slot 64} {l : List (Fin 64)} (h : ∀ j ∈ l, ys[j] = xs[j])
    (hl : l.Pairwise (DueBefore xs)) : l.Pairwise (DueBefore ys) :=
  hl.imp_of_mem fun ha hb hab => by rwa [DueBefore, h _ ha, h _ hb]

/-- The order of the list is kept as a slot that is not on it is armed. -/
theorem armSlot_ordered {i : Fin 64} {au : Agenda} (hi : i ∉ au.dueList) (h : au.dueList.Pairwise (DueBefore au.slots))
    (due : Nat) : (armSlot i due au).dueList.Pairwise (DueBefore (armSlot i due au).slots) := by
  have hkept : au.dueList.Pairwise (DueBefore (armSlot i due au).slots) :=
    pairwise_dueBefore_congr (fun j hj => armSlot_slots_other (ne_of_mem_of_not_mem hj hi) due au) h
  exact (dueInsert_pairwise _ i _ hi (hkept.imp (dueBefore_iff _ _ _).2)).imp (dueBefore_iff _ _ _).1

theorem armSlot_dueListSound {i : Fin 64} {au : Agenda} (h : DueListSound au) (hi : au.slots[i].state ≠ .armed) (due : Nat) :
    DueListSound (armSlot i due au) := by
  refine ⟨armSlot_ordered (mt (h.listed i).1 hi) h.ordered due, fun j => ?_⟩
  rw [mem_armSlot]
  by_cases hj : j = i
  · subst hj
    simp
  · rw [armSlot_slots_other hj, ← h.listed j]
    simp [hj]

end Sys2Proof.Machine
end

section
/-! SUPPORT. OCCURRENCE: when no occurrence is taken (R48), and what a performed one hands out (R51 to R53, R59). -/

namespace Sys2Proof.Machine

/-! ## The taking of the head (R48, R50) -/

theorem exec_occurrence_keeps {s : State} (h : s.tb.run = .stopped ∨ s.au.dueList = [] ∨
      ∃ i rest, s.au.dueList = i :: rest ∧ s.tb.count < s.au.slots[i].entry.due) :
    exec .occurrence s = .next s := by
  refine congrArg Host.Outcome.next ?_
  by_cases hup : s.mainUp
  · rw [whenMain_up s _ hup]
    cases hlist : s.au.dueList with
    | nil => rfl
    | cons i rest =>
      refine if_neg fun ⟨hrun, hdue⟩ => ?_
      obtain hstopped | hempty | ⟨_, _, heq, hlater⟩ := h
      · simp [hstopped] at hrun
      · simp [hlist] at hempty
      · obtain ⟨rfl, rfl⟩ := List.cons.inj (hlist.symm.trans heq)
        exact Nat.not_lt.2 hdue hlater
  · exact whenMain_down s _ hup

/-- Settles O19: with the main domain up by the branches of the head's taking, and else there is no event. -/
theorem noOccurrenceBeforeItsTime : Obligations.NoOccurrenceBeforeItsTime := fun _ => exec_occurrence_keeps

theorem exec_occurrence_takes {s : State} {i : Fin 64} {rest : List (Fin 64)} (h : s.takes i rest) :
    exec .occurrence s = .next (bringTicks (takeOccurrence i rest s)) := by
  obtain ⟨hup, hrun, hlist, hdue⟩ := h
  refine congrArg Host.Outcome.next ((whenMain_up s _ hup).trans ?_)
  rw [hlist]
  exact if_pos ⟨hrun, hdue⟩

/-! ## The line action (R51, R70) -/

theorem lineAction_lines (setMask clearMask : BitVec 8) (width : Nat) (source : Source) (d : DispatchUnit) (n : Fin 8) :
    (lineAction setMask clearMask width source d).lines[n] =
      d.lines[n].act (setMask.getLsbD n.val) (clearMask.getLsbD n.val) width source := by
  simp [lineAction]

theorem lineAction_no_line (width : Nat) (source : Source) (d : DispatchUnit) : lineAction 0 0 width source d = d := by
  have hlines : (d.lines.mapIdx fun i l => l.act ((0 : BitVec 8).getLsbD i) ((0 : BitVec 8).getLsbD i) width source) =
      d.lines := by
    ext n hn
    simp [Line.act]
  rw [lineAction, hlines]

/-! ## Requests that join a transmit queue (R99, R100, R103) -/

/-- A transmitter that requests have joined: it begins the first of them where its queue was empty. -/
def Transmitter.joinedBy (mm : MessageMemory) (requests : List Request) (t : Transmitter) : Transmitter :=
  if t.queue = [] then Transmitter.startHead mm false { t with queue := requests }
  else { t with queue := t.queue ++ requests }

section
variable (mm : MessageMemory) (requests : List Request) (t : Transmitter)

theorem startHead_tickOwed (lead : Bool) : (Transmitter.startHead mm lead t).tickOwed = t.tickOwed := by
  unfold Transmitter.startHead
  split <;> rfl

theorem joinedBy_tickOwed : (t.joinedBy mm requests).tickOwed = t.tickOwed := by
  unfold Transmitter.joinedBy
  split
  · exact startHead_tickOwed mm _ false
  · rfl

theorem joinedBy_queue : (t.joinedBy mm requests).queue = t.queue ++ requests := by
  unfold Transmitter.joinedBy
  split
  · rename_i h
    rw [startHead_queue, h, List.nil_append]
  · rfl

theorem joinedBy_begins (h : t.queue = []) : (t.joinedBy mm requests).hasBegun mm false := by
  rw [Transmitter.joinedBy, if_pos h]
  exact startHead_hasBegun mm false _

theorem joinedBy_waits (h : t.queue ≠ []) : t.joinedBy mm requests = { t with queue := (t.joinedBy mm requests).queue } := by
  rw [Transmitter.joinedBy, if_neg h]

end

theorem joinQueue_eq (ch : Channel) (r : Request) (s : State) :
    joinQueue ch r s = if (s.tx ch).queue = [] then putOnLine ch ((s.tx ch).joinedBy s.mm [r]) s
      else s.withTx ch ((s.tx ch).joinedBy s.mm [r]) := by
  simp only [joinQueue, Transmitter.joinedBy, List.isEmpty_iff]
  split <;> rfl

/-- What joins a queue begins without a tick of its own, and leaves the ticks that are on their way so (log 5). -/
theorem joinQueue_tickOwed (ch ch' : Channel) (r : Request) (s : State) :
    ((joinQueue ch r s).tx ch').tickOwed = (s.tx ch').tickOwed := by
  have h : ((s.withTx ch ((s.tx ch).joinedBy s.mm [r])).tx ch').tickOwed = (s.tx ch').tickOwed := by
    obtain rfl | rfl : ch' = ch ∨ ch' = otherChannel ch := by cases ch <;> cases ch' <;> simp [otherChannel]
    · rw [withTx_tx, joinedBy_tickOwed]
    · rw [withTx_tx_other]
  rw [joinQueue_eq]
  split
  · rw [putOnLine_tx, h]
  · exact h

section
variable {s u : State} (ch : Channel)

theorem putOnLine_ser_congr (t : Transmitter) (hser : u.ser = s.ser) : (putOnLine ch t u).ser = (putOnLine ch t s).ser := by
  have hchan : ∀ c, u.chan c = s.chan c := fun c => congrArg (fun ser => ser.chans.get c) hser
  have hrx : ∀ c, u.rx c = s.rx c := fun c => congrArg SerialChannel.rx (hchan c)
  unfold putOnLine
  rw [hser, hchan, hrx]
  split <;> simp only [State.withRx, State.withTx, State.chan, hser]

/-- Only the channels and the messages bear on what a request makes of the channels. -/
theorem joinQueue_ser_congr (r : Request) (hser : u.ser = s.ser) (hmm : u.mm = s.mm) :
    (joinQueue ch r u).ser = (joinQueue ch r s).ser := by
  have htx : u.tx ch = s.tx ch := congrArg (fun ser => (ser.chans.get ch).tx) hser
  rw [joinQueue_eq, joinQueue_eq, htx, hmm]
  split
  · exact putOnLine_ser_congr ch _ hser
  · simp only [State.withTx, State.chan, hser]

end

/-! ## The SEND request (R52, R85, R100) -/

/-- Why the SEND request of a performed occurrence is refused; absent where it joins its queue, or where the entry names no
message. -/
def Entry.sendRefused (e : Entry) (s : State) : Option RefuseReason := e.message.bind (sendRefusal s e.channel)

/-- The reasons in the order of their checks: NO_MESSAGE, CHANNEL_OFF, QUEUE_FULL. -/
theorem sendRefused_said (e : Entry) (s : State) : e.sendRefused s =
    match e.message with
    | none => none
    | some m =>
      if s.mm.directory[m].defined = false then some .noMessage
      else if (s.chan e.channel).config.txEnable = false then some .channelOff
      else if 8 ≤ (s.tx e.channel).queue.length then some .queueFull
      else none := by
  unfold Entry.sendRefused
  cases e.message with
  | none => rfl
  | some m =>
    simp only [Option.bind_some, sendRefusal, queueRefusal, Config.queueDepth]
    cases s.mm.directory[m].defined <;> cases (s.chan e.channel).config.txEnable <;> rfl

section
variable (i : Fin 64) (e : Entry) (s : State)

theorem occurrenceSend_refused : (occurrenceSend i e s).2 = e.sendRefused s := by
  unfold occurrenceSend Entry.sendRefused
  cases e.message with
  | none => rfl
  | some m => cases h : sendRefusal s e.channel m <;> simp [h]

theorem occurrenceSend_joins {m : Fin 32} (hm : e.message = some m) (h : e.sendRefused s = none) :
    (occurrenceSend i e s).1 = joinSend e.channel m (.slot i) e.notify.onTxEnd s := by
  have h' : sendRefusal s e.channel m = none := by simpa [Entry.sendRefused, hm] using h
  simp [occurrenceSend, hm, h']

/-- Without a message nothing is sent; a refused request sets ACTION_REFUSED alone. -/
theorem occurrenceSend_keeps (h : e.message = none ∨ e.sendRefused s ≠ none) :
    (occurrenceSend i e s).1 = { s with niu := s.niu.refusing (e.sendRefused s).isSome } := by
  unfold Entry.sendRefused at *
  unfold occurrenceSend
  cases hm : e.message with
  | none => rfl
  | some m =>
    cases hr : sendRefusal s e.channel m with
    | none => simp [hm, hr] at h
    | some reason => simp [hr, setFault, Notices.refusing, FaultFlag.mask, FaultFlag.bit]

theorem occurrenceSend_niu : (occurrenceSend i e s).1.niu = s.niu.refusing (e.sendRefused s).isSome := by
  by_cases h : e.message = none ∨ e.sendRefused s ≠ none
  · rw [occurrenceSend_keeps i e s h]
  · obtain ⟨hm, hr⟩ := not_or.1 h
    obtain ⟨m, hm⟩ := Option.ne_none_iff_exists'.1 hm
    rw [occurrenceSend_joins i e s hm (not_not.1 hr), joinSend_niu, not_not.1 hr]
    rfl

theorem occurrenceSend_tickOwed (ch : Channel) : ((occurrenceSend i e s).1.tx ch).tickOwed = (s.tx ch).tickOwed := by
  by_cases h : e.message = none ∨ e.sendRefused s ≠ none
  · rw [occurrenceSend_keeps i e s h]
    rfl
  · obtain ⟨hm, hr⟩ := not_or.1 h
    obtain ⟨m, hm⟩ := Option.ne_none_iff_exists'.1 hm
    rw [occurrenceSend_joins i e s hm (not_not.1 hr)]
    exact joinQueue_tickOwed _ _ _ s

end

/-! ## The chain arm (R53) -/

/-- The chain arm of a performed occurrence is refused: its target is not HELD, or is due beyond END. -/
def Entry.chainRefused (e : Entry) (au : Agenda) : Bool :=
  e.chainTarget.any fun c =>
    !(decide (au.slots[c].state = .held) && decide (e.due + e.chainDelay ≤ Config.endTime))

theorem chainRefused_said (e : Entry) (au : Agenda) : e.chainRefused au =
    match e.chainTarget with
    | none => false
    | some c => !(decide ((au.slots[c] : Slot).state = SlotState.held) && decide (e.due + e.chainDelay ≤ Config.endTime)) := by
  unfold Entry.chainRefused
  cases e.chainTarget <;> rfl

section
variable (e : Entry) (s : State)

theorem occurrenceChain_arms {c : Fin 64} (hc : e.chainTarget = some c) (h : e.chainRefused s.au = false) :
    occurrenceChain e s = ({ s with au := armSlot c (e.due + e.chainDelay) s.au }, false) := by
  have h' : s.au.slots[c].state = .held ∧ e.due + e.chainDelay ≤ Config.endTime := by
    simpa [Entry.chainRefused, hc] using h
  simp only [occurrenceChain, hc, if_pos h']

/-- Without a target nothing is armed; a refused chain arm sets ACTION_REFUSED alone. -/
theorem occurrenceChain_keeps (h : e.chainTarget = none ∨ e.chainRefused s.au = true) :
    occurrenceChain e s = ({ s with niu := s.niu.refusing (e.chainRefused s.au) }, e.chainRefused s.au) := by
  unfold Entry.chainRefused at *
  unfold occurrenceChain
  cases hc : e.chainTarget with
  | none => rfl
  | some c =>
    have hr : ¬ (s.au.slots[c].state = .held ∧ e.due + e.chainDelay ≤ Config.endTime) := by
      simpa [hc, imp_iff_not_or] using h
    simp only [Option.any_some, if_neg hr, ← Bool.decide_and, decide_eq_false hr]
    rfl

theorem occurrenceChain_refused_niu : (occurrenceChain e s).2 = e.chainRefused s.au ∧
    (occurrenceChain e s).1.niu = s.niu.refusing (e.chainRefused s.au) := by
  by_cases h : e.chainTarget = none ∨ e.chainRefused s.au = true
  · rw [occurrenceChain_keeps e s h]
    exact ⟨rfl, rfl⟩
  · obtain ⟨hc, hr⟩ := not_or.1 h
    obtain ⟨c, hc⟩ := Option.ne_none_iff_exists'.1 hc
    rw [occurrenceChain_arms e s hc (Bool.eq_false_iff.2 hr), Bool.eq_false_iff.2 hr]
    exact ⟨rfl, rfl⟩

end
/-! ## The end of an occurrence (R56 to R59) -/

theorem advance_last (e : Entry) (consumed next : Nat) : (advance e consumed next).1.last = e.last := by
  unfold advance
  split_ifs <;> rfl

section
variable (i : Fin 64) (onSpent : Bool) (a : Entry × Option SpentReason) (s : State)

theorem settleOccurrence_slots_other {j : Fin 64} (h : j ≠ i) :
    (settleOccurrence i onSpent a s).au.slots[j] = s.au.slots[j] := by
  unfold settleOccurrence
  split
  · exact (armSlot_slots_other h _ _).trans (putSlot_slots_other h _ s.au)
  · rw [postIf_au]
    exact putSlot_slots_other h _ s.au

theorem settleOccurrence_last : (settleOccurrence i onSpent a s).au.slots[i].entry.last = a.1.last := by
  unfold settleOccurrence
  split
  · simp
  · simp [putSlot]

theorem settleOccurrence_mem_dueList {j : Fin 64} (h : j ∈ s.au.dueList) :
    j ∈ (settleOccurrence i onSpent a s).au.dueList := by
  unfold settleOccurrence
  split
  · exact (mem_armSlot _ _ _ _).2 (.inr h)
  · rwa [postIf_au]

theorem settleOccurrence_au : (settleOccurrence i onSpent a s).au = { s.au with
    slots := (settleOccurrence i onSpent a s).au.slots, dueList := (settleOccurrence i onSpent a s).au.dueList } := by
  unfold settleOccurrence
  split
  · rfl
  · rw [postIf_au]
    rfl

/-- The end of an occurrence posts the SPENT notice alone, or none. -/
theorem settleOccurrence_niu : ∃ bodies, (settleOccurrence i onSpent a s).niu = s.niu.took s.present bodies := by
  unfold settleOccurrence
  split
  · exact ⟨[], (Notices.took_nil _ _).symm⟩
  · exact ⟨_, congrArg State.niu (postIf_eq_took _ _ _)⟩

end

/-! ## A performed occurrence (R51 to R54) -/

/-- The part with the line action of entry `e` of slot `i` taken (R51). -/
def State.lined (s : State) (i : Fin 64) (e : Entry) : State :=
  { s with du := lineAction e.setMask e.clearMask e.pulseWidth (.slot i) s.du }

/-- The part as an occurrence of slot `i` has handed out its actions: the line action, the SEND request and the chain arm. -/
def State.handedOut (s : State) (i : Fin 64) (e : Entry) : State :=
  (occurrenceChain e (occurrenceSend i e (s.lined i e)).1).1

/-- The part as it has then posted the FIRED notice, where the entry asks for one (R54). -/
def State.firePosted (s : State) (i : Fin 64) (e : Entry) : State :=
  postIf e.notify.onFire (.fired i (min (s.tb.count - e.due) 65535) (e.sendRefused s) (e.chainRefused s.au))
    (s.handedOut i e)

/-- The entry of a performed occurrence before its advance: fired once more, with its last occurrence recorded (R54, R59). -/
def Entry.performed (e : Entry) (s : State) : Entry :=
  { e with
    fired := min (e.fired + 1) 65535
    last := some (lastRecord e s (.performed (e.sendRefused s) (e.chainRefused s.au))) }

/-- A performed occurrence hands out its actions, posts its notice and settles its slot. -/
theorem performOccurrence_eq (i : Fin 64) (e : Entry) (s : State) :
    performOccurrence i e s =
      settleOccurrence i e.notify.onSpent (advance (e.performed s) 1 (e.due + e.period)) (s.firePosted i e) := by
  have hline : (if e.setMask = 0 ∧ e.clearMask = 0 then s
      else { s with du := lineAction e.setMask e.clearMask e.pulseWidth (.slot i) s.du }) = s.lined i e := by
    split
    · rename_i h
      rw [State.lined, h.1, h.2, lineAction_no_line]
    · rfl
  simp only [performOccurrence, hline, occurrenceSend_refused, (occurrenceChain_refused_niu _ _).1, occurrenceSend_au]
  rfl

section
variable (s : State) (i : Fin 64) (e : Entry)

theorem handedOut_du : (s.handedOut i e).du = lineAction e.setMask e.clearMask e.pulseWidth (.slot i) s.du := by
  rw [State.handedOut, occurrenceChain_du, occurrenceSend_du, State.lined]

theorem handedOut_present : (s.handedOut i e).present = s.present := by simp [State.handedOut, State.lined]

theorem handedOut_niu : (s.handedOut i e).niu =
    s.niu.refusing ((e.sendRefused s).isSome || e.chainRefused s.au) := by
  rw [State.handedOut, (occurrenceChain_refused_niu _ _).2, occurrenceSend_niu, occurrenceSend_au, Notices.refusing_refusing]
  rfl

theorem handedOut_tickOwed (ch : Channel) : ((s.handedOut i e).tx ch).tickOwed = (s.tx ch).tickOwed := by
  have hchain : ∀ u : State, (occurrenceChain e u).1.tx ch = u.tx ch := fun u => by simp [State.tx, State.chan]
  rw [State.handedOut, hchain, occurrenceSend_tickOwed]
  rfl

theorem handedOut_sends {m : Fin 32} (hm : e.message = some m) (h : e.sendRefused s = none) :
    (s.handedOut i e).ser = (joinQueue e.channel (.send m (.slot i) e.notify.onTxEnd) s).ser ∧
      (s.handedOut i e).mm = claimMessage m s.mm := by
  rw [State.handedOut, occurrenceChain_ser, occurrenceChain_mm, occurrenceSend_joins i e (s.lined i e) hm h]
  exact ⟨joinQueue_ser_congr _ _ rfl rfl, rfl⟩

theorem handedOut_sends_nothing (h : e.message = none ∨ e.sendRefused s ≠ none) :
    (s.handedOut i e).ser = s.ser ∧ (s.handedOut i e).mm = s.mm := by
  rw [State.handedOut, occurrenceChain_ser, occurrenceChain_mm, occurrenceSend_keeps i e (s.lined i e) h]
  exact ⟨rfl, rfl⟩

theorem handedOut_arms {c : Fin 64} (hc : e.chainTarget = some c) (h : e.chainRefused s.au = false) :
    (s.handedOut i e).au = armSlot c (e.due + e.chainDelay) s.au := by
  rw [State.handedOut, occurrenceChain_arms e _ hc (by rwa [occurrenceSend_au]), occurrenceSend_au]
  rfl

theorem handedOut_arms_nothing (h : e.chainTarget = none ∨ e.chainRefused s.au = true) : (s.handedOut i e).au = s.au := by
  rw [State.handedOut, occurrenceChain_keeps e _ (by rwa [occurrenceSend_au]), occurrenceSend_au]
  rfl

/-- The chain arm changes its target and the due list alone. -/
theorem handedOut_au : (s.handedOut i e).au = { s.au with
    slots := (s.handedOut i e).au.slots, dueList := (s.handedOut i e).au.dueList } := by
  by_cases h : e.chainTarget = none ∨ e.chainRefused s.au = true
  · rw [handedOut_arms_nothing s i e h]
  · obtain ⟨hc, hr⟩ := not_or.1 h
    obtain ⟨c, hc⟩ := Option.ne_none_iff_exists'.1 hc
    rw [handedOut_arms s i e hc (Bool.eq_false_iff.2 hr)]
    rfl

theorem handedOut_slots_kept {j : Fin 64} (h : e.chainRefused s.au = true ∨ e.chainTarget ≠ some j) :
    (s.handedOut i e).au.slots[j] = s.au.slots[j] := by
  by_cases hk : e.chainTarget = none ∨ e.chainRefused s.au = true
  · rw [handedOut_arms_nothing s i e hk]
  · obtain ⟨hc, hr⟩ := not_or.1 hk
    obtain ⟨c, hc⟩ := Option.ne_none_iff_exists'.1 hc
    rw [handedOut_arms s i e hc (Bool.eq_false_iff.2 hr)]
    refine armSlot_slots_other ?_ _ _
    rintro rfl
    exact h.elim hr (absurd hc)

/-! ### What it leaves -/

theorem firePosted_ser_mm : (s.firePosted i e).ser = (s.handedOut i e).ser ∧
    (s.firePosted i e).mm = (s.handedOut i e).mm := by
  simp [State.firePosted]

theorem firePosted_au : (s.firePosted i e).au = (s.handedOut i e).au := by simp [State.firePosted]

theorem firePosted_niu : ∃ bodies, (s.firePosted i e).niu =
    (s.niu.refusing ((e.sendRefused s).isSome || e.chainRefused s.au)).took s.present bodies := by
  rw [State.firePosted, postIf_eq_took, handedOut_niu, handedOut_present]
  exact ⟨_, rfl⟩

theorem firePosted_present : (s.firePosted i e).present = s.present := by
  rw [State.firePosted, postIf_eq_took]
  exact handedOut_present s i e

theorem performOccurrence_ser_mm : (performOccurrence i e s).ser = (s.handedOut i e).ser ∧
    (performOccurrence i e s).mm = (s.handedOut i e).mm := by
  rw [performOccurrence_eq, settleOccurrence_ser, settleOccurrence_mm]
  exact firePosted_ser_mm s i e

theorem performOccurrence_du :
    (performOccurrence i e s).du = lineAction e.setMask e.clearMask e.pulseWidth (.slot i) s.du := by
  rw [performOccurrence_eq, settleOccurrence_du, State.firePosted, postIf_du, handedOut_du]

theorem performOccurrence_au : (performOccurrence i e s).au = { s.au with
    slots := (performOccurrence i e s).au.slots, dueList := (performOccurrence i e s).au.dueList } := by
  have h := settleOccurrence_au i e.notify.onSpent (advance (e.performed s) 1 (e.due + e.period)) (s.firePosted i e)
  rw [← performOccurrence_eq, firePosted_au, handedOut_au] at h
  exact h

theorem performOccurrence_slots_other {j : Fin 64} (h : j ≠ i) :
    (performOccurrence i e s).au.slots[j] = (s.handedOut i e).au.slots[j] := by
  rw [performOccurrence_eq, settleOccurrence_slots_other _ _ _ _ h, firePosted_au]

theorem performOccurrence_mem_dueList {j : Fin 64} (h : j ∈ (s.handedOut i e).au.dueList) :
    j ∈ (performOccurrence i e s).au.dueList := by
  rw [performOccurrence_eq]
  exact settleOccurrence_mem_dueList _ _ _ _ (firePosted_au s i e ▸ h)

theorem performOccurrence_last : (performOccurrence i e s).au.slots[i].entry.last =
    some (lastRecord e s (.performed (e.sendRefused s) (e.chainRefused s.au))) := by
  rw [performOccurrence_eq, settleOccurrence_last, advance_last, Entry.performed]

theorem performOccurrence_niu : ∃ bodies, (performOccurrence i e s).niu =
    (s.niu.refusing ((e.sendRefused s).isSome || e.chainRefused s.au)).took s.present bodies := by
  obtain ⟨fired, hfired⟩ := firePosted_niu s i e
  obtain ⟨spent, hspent⟩ :=
    settleOccurrence_niu i e.notify.onSpent (advance (e.performed s) 1 (e.due + e.period)) (s.firePosted i e)
  rw [← performOccurrence_eq, hfired, firePosted_present, Notices.took_took] at hspent
  exact ⟨_, hspent⟩

theorem performOccurrence_ticksTaken (h : s.ticksTaken) : (performOccurrence i e s).ticksTaken := by
  have htx : ∀ ch, ((performOccurrence i e s).tx ch).tickOwed = (s.tx ch).tickOwed := fun ch => by
    rw [State.tx, State.chan, (performOccurrence_ser_mm s i e).1]
    exact handedOut_tickOwed s i e ch
  obtain ⟨hdu, ha, hb⟩ := h
  refine ⟨?_, (htx .a).trans ha, (htx .b).trans hb⟩
  rw [performOccurrence_du]
  exact hdu

end

/-! ## The head's occurrence within its tolerance -/

/-- The part with the due list as given: as the head is taken, that is what stands behind it (R50). -/
def State.withDueList (s : State) (list : List (Fin 64)) : State := { s with au := { s.au with dueList := list } }

theorem exec_occurrence_performs {s : State} {i : Fin 64} {rest : List (Fin 64)} {e : Entry} (h : s.takes i rest)
    (hticks : s.ticksTaken) (he : s.au.slots[i].entry = e) (hlate : s.tb.count - e.due ≤ e.tolerance) :
    exec .occurrence s = .next (performOccurrence i e (s.withDueList rest)) := by
  subst he
  have htaken : takeOccurrence i rest s = performOccurrence i s.au.slots[i].entry (s.withDueList rest) := if_pos hlate
  obtain ⟨hdu, ha, hb⟩ := performOccurrence_ticksTaken (s.withDueList rest) i s.au.slots[i].entry hticks
  rw [exec_occurrence_takes h, htaken, bringTicks_taken _ hdu fun | .a => ha | .b => hb]

/-- The SEND request of entry `e` of slot `i`, where it names a message (R52). -/
def Entry.requests (e : Entry) (i : Fin 64) : List Request :=
  e.message.toList.map fun m => .send m (.slot i) e.notify.onTxEnd

theorem joinQueue_eq_joinedBy_requests {e : Entry} {m : Fin 32} (hm : e.message = some m) (i : Fin 64) (s : State) :
    joinQueue e.channel (.send m (.slot i) e.notify.onTxEnd) s =
      if (s.tx e.channel).queue = [] then putOnLine e.channel ((s.tx e.channel).joinedBy s.mm (e.requests i)) s
      else s.withTx e.channel ((s.tx e.channel).joinedBy s.mm (e.requests i)) := by
  rw [joinQueue_eq, Entry.requests, hm]
  rfl

/-- Settles O20: one lemma for each part that a performed occurrence changes, and for each block what of it stays. -/
theorem performedOccurrenceHandsOutItsActions : Obligations.PerformedOccurrenceHandsOutItsActions := by
  intro s i rest e hs htakes hticks he hlate refused chainRefused hrefused hchain
  have hself : e.chainTarget ≠ some i := he ▸ hs.unchained i
  obtain rfl : refused = e.sendRefused (s.withDueList rest) := hrefused.trans (sendRefused_said e s).symm
  obtain rfl : chainRefused = e.chainRefused (s.withDueList rest).au := hchain.trans (chainRefused_said e s.au).symm
  obtain ⟨hser, hmm⟩ := performOccurrence_ser_mm (s.withDueList rest) i e
  obtain ⟨bodies, hniu⟩ := performOccurrence_niu (s.withDueList rest) i e
  refine ⟨_, (s.tx e.channel).joinedBy s.mm (e.requests i), bodies, exec_occurrence_performs htakes hticks he hlate,
    fun n => ?lines, ⟨joinedBy_tickOwed _ _ _, joinedBy_begins _ _ _, joinedBy_waits _ _ _, fun m hm => ?request⟩, ?send,
    fun c hc hr => ?chain, fun j hj hk => ?others, performOccurrence_last _ i e, hniu, ?frame⟩
  case lines =>
    rw [performOccurrence_du]
    exact lineAction_lines _ _ _ _ s.du n
  case request =>
    rw [joinedBy_queue, Entry.requests, hm]
    rfl
  case send =>
    rw [hser, hmm]
    split
    · rename_i m hm hr
      obtain ⟨hjoined, hclaimed⟩ := handedOut_sends (s.withDueList rest) i e hm hr
      refine ⟨?_, hclaimed⟩
      rw [hjoined, joinQueue_ser_congr (u := s.withDueList rest) (s := s) _ _ rfl rfl, joinQueue_eq_joinedBy_requests hm]
    · rename_i hnot
      refine handedOut_sends_nothing (s.withDueList rest) i e ?_
      by_contra! hsent
      obtain ⟨m, hm⟩ := Option.ne_none_iff_exists'.1 hsent.1
      exact hnot m hm hsent.2
  case chain =>
    have hci : c ≠ i := by
      rintro rfl
      exact hself hc
    have harms := handedOut_arms (s.withDueList rest) i e hc hr
    rw [performOccurrence_slots_other _ _ _ hci, harms]
    exact ⟨armSlot_slots_same _ _ _,
      performOccurrence_mem_dueList _ _ _ (harms ▸ (mem_armSlot _ _ _ _).2 (.inl rfl))⟩
  case others => exact (performOccurrence_slots_other _ _ _ hj).trans (handedOut_slots_kept _ i e hk)
  case frame =>
    have hau := performOccurrence_au (s.withDueList rest) i e
    have hdu : (performOccurrence i e (s.withDueList rest)).du =
        { s.du with lines := (performOccurrence i e (s.withDueList rest)).du.lines } := by
      rw [performOccurrence_du]
      rfl
    refine (performOccurrence_frame i e (s.withDueList rest)).trans ?_
    rw [hau, hdu]
    rfl

end Sys2Proof.Machine
end

section
/-! SUPPORT. The arm requests of a group (R61, R62, R159, R160): what one request does, then what the requests of a group do, one
after the other. -/

namespace Sys2Proof.Machine

/-! ## One arm request (R61, R159, R160) -/

theorem takeArmRequest_of_held {s : State} {q : ArmRequest} (h : s.au.slots[q.slot].state = .held) :
    takeArmRequest s q = { s with
      au := armSlot q.slot q.due s.au
      tu := if q.current && s.tu.rules[q.rule].oneShot then
          { s.tu with rules := s.tu.rules.set q.rule { s.tu.rules[q.rule] with enabled := false } }
        else s.tu } := by
  simp only [takeArmRequest, if_pos h]
  split <;> rfl

theorem takeArmRequest_of_not_held {s : State} {q : ArmRequest} (h : s.au.slots[q.slot].state ≠ .held) :
    takeArmRequest s q = triggerMiss q.rule q.slot .notHeld q.current s := if_neg h

/-- A request has no effect on a slot that it does not name or that is not HELD. -/
theorem takeArmRequest_slots_kept {s : State} {q : ArmRequest} {j : Fin 64}
    (h : s.au.slots[j].state ≠ .held ∨ q.slot ≠ j) : (takeArmRequest s q).au.slots[j] = s.au.slots[j] := by
  by_cases hq : s.au.slots[q.slot].state = .held
  · rw [takeArmRequest_of_held hq]
    refine armSlot_slots_other ?_ _ _
    rintro rfl
    exact h.elim (absurd hq) (absurd rfl)
  · simp [takeArmRequest_of_not_held hq]

theorem takeArmRequest_slots_hit {s : State} {q : ArmRequest} (h : s.au.slots[q.slot].state = .held) :
    (takeArmRequest s q).au.slots[q.slot] =
      { state := .armed, entry := { s.au.slots[q.slot].entry with due := q.due } } := by
  rw [takeArmRequest_of_held h]
  exact armSlot_slots_same _ _ _

/-- After a request its slot is not HELD: it is ARMED now, or was not HELD before. -/
theorem takeArmRequest_held_iff (s : State) (q : ArmRequest) (j : Fin 64) :
    (takeArmRequest s q).au.slots[j].state = .held ↔ s.au.slots[j].state = .held ∧ q.slot ≠ j := by
  by_cases hj : q.slot = j
  · subst hj
    by_cases hq : s.au.slots[q.slot].state = .held
    · simp [takeArmRequest_slots_hit hq]
    · rw [takeArmRequest_slots_kept (.inl hq)]
      exact ⟨fun h => absurd h hq, fun h => absurd rfl h.2⟩
  · simp [takeArmRequest_slots_kept (.inr hj), hj]

theorem takeArmRequest_mem_dueList (s : State) (q : ArmRequest) (j : Fin 64) :
    j ∈ (takeArmRequest s q).au.dueList ↔ j ∈ s.au.dueList ∨ (s.au.slots[j].state = .held ∧ q.slot = j) := by
  by_cases hq : s.au.slots[q.slot].state = .held
  · rw [takeArmRequest_of_held hq, mem_armSlot, or_comm]
    refine or_congr_right ⟨?_, fun h => h.2.symm⟩
    rintro rfl
    exact ⟨hq, rfl⟩
  · rw [takeArmRequest_of_not_held hq, triggerMiss_au]
    refine ⟨.inl, fun h => h.resolve_right ?_⟩
    rintro ⟨hj, rfl⟩
    exact hq hj

theorem takeArmRequest_dueListSound {s : State} (h : DueListSound s.au) (q : ArmRequest) :
    DueListSound (takeArmRequest s q).au := by
  by_cases hq : s.au.slots[q.slot].state = .held
  · rw [takeArmRequest_of_held hq]
    exact armSlot_dueListSound h (hq ▸ nofun) _
  · rwa [takeArmRequest_of_not_held hq, triggerMiss_au]

/-- A request touches the rules of the Trigger Unit, and the slots and the due list of the Agenda Unit. -/
theorem takeArmRequest_au_tu (s : State) (q : ArmRequest) :
    (takeArmRequest s q).au = { s.au with
      slots := (takeArmRequest s q).au.slots, dueList := (takeArmRequest s q).au.dueList } ∧
    (takeArmRequest s q).tu = { s.tu with rules := (takeArmRequest s q).tu.rules } := by
  by_cases hq : s.au.slots[q.slot].state = .held
  · rw [takeArmRequest_of_held hq]
    exact ⟨rfl, by dsimp only; split <;> rfl⟩
  · rw [takeArmRequest_of_not_held hq, triggerMiss_eq]
    exact ⟨rfl, by dsimp only; split <;> rfl⟩

/-- A rule after answers to its requests: a hit disables it where it is one-shot, a miss sets its miss flag (R159, R160). -/
def Rule.answered (r : Rule) (hit miss : Bool) : Rule :=
  { r with enabled := r.enabled && !(r.oneShot && hit), miss := r.miss || miss }

@[simp] theorem Rule.answered_nothing (r : Rule) : r.answered false false = r := by simp [Rule.answered]

theorem Rule.answered_answered (r : Rule) (h m h' m' : Bool) :
    (r.answered h m).answered h' m' = r.answered (h || h') (m || m') := by
  simp only [Rule.answered, Bool.and_or_distrib_left, Bool.not_or, Bool.and_assoc, Bool.or_assoc]

theorem Rule.answered_hit (r : Rule) : r.answered true false = if r.oneShot then { r with enabled := false } else r := by
  obtain ⟨_, _, _, _, _, oneShot, _⟩ := r
  cases oneShot <;> simp [Rule.answered]

theorem Rule.answered_miss (r : Rule) : r.answered false true = { r with miss := true } := by simp [Rule.answered]

theorem rules_setIf (tu : Triggers) (c : Bool) (i k : Fin 8) (x : Rule) :
    (if c then { tu with rules := tu.rules.set i x } else tu).rules[k] =
      if c = true ∧ i = k then x else tu.rules[k] := by
  cases c <;> simp [Vector.getElem_set, Fin.ext_iff]

/-- The answer to a request reaches the rule that made it, unless the request is detached (R158). -/
theorem takeArmRequest_rules (s : State) (q : ArmRequest) (k : Fin 8) :
    (takeArmRequest s q).tu.rules[k] = (s.tu.rules[k] : Rule).answered
      (decide (s.au.slots[q.slot].state = .held) && (q.rule == k && q.current))
      (!decide (s.au.slots[q.slot].state = .held) && (q.rule == k && q.current)) := by
  by_cases hq : s.au.slots[q.slot].state = .held
  · rw [takeArmRequest_of_held hq, rules_setIf, decide_eq_true hq]
    by_cases hk : q.rule = k
    · subst hk
      cases q.current <;> simp [Rule.answered_hit]
    · simp [hk, beq_eq_false_iff_ne.2 hk]
  · rw [takeArmRequest_of_not_held hq, triggerMiss_eq, rules_setIf, decide_eq_false hq]
    by_cases hk : q.rule = k
    · subst hk
      cases q.current <;> simp [Rule.answered_miss]
    · simp [hk, beq_eq_false_iff_ne.2 hk]

/-- A request that misses posts its notice and sets ACTION_REFUSED. -/
theorem takeArmRequest_niu (s : State) (q : ArmRequest) :
    (takeArmRequest s q).niu =
      if s.au.slots[q.slot].state = .held then s.niu
      else (s.niu.refusing true).took s.present [.triggerMiss q.rule q.slot .notHeld] := by
  split
  · rename_i hq
    rw [takeArmRequest_of_held hq]
  · rename_i hq
    rw [takeArmRequest_of_not_held hq, triggerMiss_eq]

/-! ## The requests of a group, in order (R62) -/

/-- The notices of the requests of a group that miss, in request order (R160). -/
def State.groupMisses (s : State) (g : List ArmRequest) : List NoticeBody :=
  (List.range g.length).filterMap fun n =>
    if s.hits g n then none else g[n]?.map fun q => .triggerMiss q.rule q.slot .notHeld

/-- Some request of a group that hits (`hit`), or that misses, is a current one of rule `k`. -/
def State.groupAnswers (s : State) (g : List ArmRequest) (hit : Bool) (k : Fin 8) : Bool :=
  (List.range g.length).any fun n => (s.hits g n == hit) && (g[n]?.any fun q => q.rule == k && q.current)

section
variable (s : State) (q : ArmRequest) (g : List ArmRequest)

theorem hits_first : s.hits (q :: g) 0 = decide (s.au.slots[q.slot].state = .held) := by simp [State.hits]

theorem held_of_hits {s : State} {g : List ArmRequest} {n : Nat} {q : ArmRequest} (hn : g[n]? = some q)
    (hh : s.hits g n = true) : s.au.slots[q.slot].state = .held := by
  simp only [State.hits, hn, Bool.and_eq_true, decide_eq_true_eq] at hh
  exact hh.1

/-- What the first request leaves says which of the others hit. -/
theorem hits_later (n : Nat) : s.hits (q :: g) (n + 1) = (takeArmRequest s q).hits g n := by
  simp only [State.hits, List.getElem?_cons_succ, List.take_succ_cons, List.any_cons, Bool.not_or]
  split
  · rfl
  · rw [decide_eq_decide.2 (takeArmRequest_held_iff s q _), Bool.decide_and, Bool.and_assoc]
    congr 2
    simp [beq_eq_decide]

theorem groupMisses_cons : s.groupMisses (q :: g) =
    (if s.au.slots[q.slot].state = .held then [] else [.triggerMiss q.rule q.slot .notHeld]) ++
      (takeArmRequest s q).groupMisses g := by
  simp only [State.groupMisses, List.length_cons, List.range_succ_eq_map, List.filterMap_cons, List.filterMap_map, hits_first,
    hits_later, Function.comp_def, List.getElem?_cons_zero, List.getElem?_cons_succ]
  by_cases h : s.au.slots[q.slot].state = .held
  · rw [if_pos h, decide_eq_true h]
    rfl
  · rw [if_neg h, decide_eq_false h]
    rfl

theorem groupAnswers_cons (hit : Bool) (k : Fin 8) : s.groupAnswers (q :: g) hit k =
    (((decide (s.au.slots[q.slot].state = .held) == hit) && (q.rule == k && q.current)) ||
      (takeArmRequest s q).groupAnswers g hit k) := by
  simp [State.groupAnswers, List.range_succ_eq_map, List.any_map, hits_first, hits_later, Function.comp_def]

end

section
variable {s : State} (g : List ArmRequest)

/-- A slot that is not HELD, or that no request of the group names, is as it was. -/
theorem takeArmRequests_slots_kept {j : Fin 64} (h : s.au.slots[j].state ≠ .held ∨ ∀ q ∈ g, q.slot ≠ j) :
    (g.foldl takeArmRequest s).au.slots[j] = s.au.slots[j] := by
  induction g generalizing s with
  | nil => rfl
  | cons q g ih =>
    have hq : (takeArmRequest s q).au.slots[j] = s.au.slots[j] :=
      takeArmRequest_slots_kept (h.imp_right fun hg => hg q List.mem_cons_self)
    rw [List.foldl_cons, ih (h.imp (hq ▸ ·) fun hg p hp => hg p (List.mem_cons_of_mem q hp)), hq]

theorem takeArmRequests_slots_hit {n : Nat} {q : ArmRequest} (hn : g[n]? = some q) (hh : s.hits g n = true) :
    (g.foldl takeArmRequest s).au.slots[q.slot] =
      { state := .armed, entry := { s.au.slots[q.slot].entry with due := q.due } } := by
  induction g generalizing s n with
  | nil => simp at hn
  | cons p g ih =>
    rw [List.foldl_cons]
    cases n with
    | zero =>
      obtain rfl : p = q := by simpa using hn
      have harmed := takeArmRequest_slots_hit (of_decide_eq_true (hits_first s p g ▸ hh))
      rw [takeArmRequests_slots_kept g (.inl (harmed ▸ nofun)), harmed]
    | succ n =>
      rw [hits_later] at hh
      have hne := ((takeArmRequest_held_iff s p q.slot).1 (held_of_hits (g := g) hn hh)).2
      rw [ih hn hh, takeArmRequest_slots_kept (.inr hne)]

theorem takeArmRequests_mem_dueList (j : Fin 64) :
    j ∈ (g.foldl takeArmRequest s).au.dueList ↔
      j ∈ s.au.dueList ∨ (s.au.slots[j].state = .held ∧ ∃ q ∈ g, q.slot = j) := by
  induction g generalizing s with
  | nil => simp
  | cons q g ih =>
    rw [List.foldl_cons, ih, takeArmRequest_mem_dueList, takeArmRequest_held_iff]
    simp only [List.exists_mem_cons_iff]
    tauto

theorem takeArmRequests_dueListSound (h : DueListSound s.au) : DueListSound (g.foldl takeArmRequest s).au := by
  induction g generalizing s with
  | nil => exact h
  | cons q g ih => exact ih (takeArmRequest_dueListSound h q)

theorem takeArmRequests_au_tu :
    (g.foldl takeArmRequest s).au = { s.au with
      slots := (g.foldl takeArmRequest s).au.slots, dueList := (g.foldl takeArmRequest s).au.dueList } ∧
    (g.foldl takeArmRequest s).tu = { s.tu with rules := (g.foldl takeArmRequest s).tu.rules } := by
  induction g generalizing s with
  | nil => exact ⟨rfl, rfl⟩
  | cons q g ih =>
    obtain ⟨hau, htu⟩ := takeArmRequest_au_tu s q
    obtain ⟨hau', htu'⟩ := ih (s := takeArmRequest s q)
    rw [List.foldl_cons]
    exact ⟨hau'.trans (by rw [hau]), htu'.trans (by rw [htu])⟩

theorem takeArmRequests_rules (k : Fin 8) :
    (g.foldl takeArmRequest s).tu.rules[k] =
      (s.tu.rules[k] : Rule).answered (s.groupAnswers g true k) (s.groupAnswers g false k) := by
  induction g generalizing s with
  | nil => simp [State.groupAnswers]
  | cons q g ih =>
    rw [List.foldl_cons, ih, takeArmRequest_rules, Rule.answered_answered, groupAnswers_cons, groupAnswers_cons]
    simp

theorem takeArmRequests_niu :
    (g.foldl takeArmRequest s).niu =
      (s.niu.refusing (decide (s.groupMisses g ≠ []))).took s.present (s.groupMisses g) := by
  induction g generalizing s with
  | nil => simp [State.groupMisses]
  | cons q g ih =>
    have hnow : (takeArmRequest s q).present = s.present := by simp
    rw [List.foldl_cons, ih, hnow, takeArmRequest_niu, groupMisses_cons]
    split
    · rfl
    · simp [Notices.took_refusing, Notices.took_took, Notices.refusing_refusing]

end

/-- The part with the answer list as given: as ARM_REQUEST_GROUP takes a group, that is what stands behind it (R62). -/
def State.withAnswers (s : State) (answers : List (List ArmRequest)) : State :=
  { s with tu := { s.tu with answers := answers } }

theorem exec_armRequestGroup {s : State} {g : List ArmRequest} {rest : List (List ArmRequest)} (h : s.mainUp)
    (hg : s.tu.answers = g :: rest) :
    exec .armRequestGroup s = .next (g.foldl takeArmRequest (s.withAnswers rest)) := by
  refine congrArg Host.Outcome.next ((whenMain_up s _ h).trans ?_)
  rw [hg, State.withAnswers]

/-- Settles O24: one lemma for each part of what the requests of a group do, each by induction on the group. -/
theorem armRequestsHitOnceThenMiss : Obligations.ArmRequestsHitOnceThenMiss := by
  intro s g rest hs hup hg
  have hsound : DueListSound (s.withAnswers rest).au := hs.dueListSound
  refine ⟨_, exec_armRequestGroup hup hg, fun n q => takeArmRequests_slots_hit (s := s.withAnswers rest) g,
    fun j => takeArmRequests_slots_kept (s := s.withAnswers rest) g, takeArmRequests_mem_dueList g,
    (takeArmRequests_dueListSound g hsound).ordered, fun k => ?_, ?_, ?_⟩
  · refine (takeArmRequests_rules g k).trans ?_
    simp only [State.groupAnswers, beq_true, beq_false]
    rfl
  · rintro _ rfl
    exact takeArmRequests_niu g
  · obtain ⟨hau, htu⟩ := takeArmRequests_au_tu (s := s.withAnswers rest) g
    calc g.foldl takeArmRequest (s.withAnswers rest)
        = { s with
            au := (g.foldl takeArmRequest (s.withAnswers rest)).au
            tu := (g.foldl takeArmRequest (s.withAnswers rest)).tu
            niu := (g.foldl takeArmRequest (s.withAnswers rest)).niu } := takeArmRequests_frame _ g
      _ = _ := by rw [hau, htu]; rfl

end Sys2Proof.Machine
end

section
/-! SUPPORT. The data port of the Message Memory (R89, R90): a cycle on MM_DATA reads or writes the byte at the pointer, a write
inside a busy message's range is refused, and the pointer goes on to the next offset. -/

namespace Sys2Proof.Machine

/-! ## The parts of a cycle on MM_DATA -/

/-- The 11 bits of the pointer carry it from the last offset of the store to the first. -/
theorem pointer_next_toNat (p : BitVec 11) : (p + 1).toNat = (p.toNat + 1) % 2048 := by
  simp [BitVec.toNat_add]

theorem Descriptor.covers_iff (d : Descriptor) (i : Nat) : d.covers i = true ↔ d.offset ≤ i ∧ i < d.offset + d.length := by
  simp [Descriptor.covers]

theorem busyAt_iff (mm : MessageMemory) (i : Nat) : busyAt mm i = true ↔
    ∃ m : Fin 32, 0 < mm.directory[m].busy ∧ mm.directory[m].offset ≤ i ∧
      i < mm.directory[m].offset + mm.directory[m].length := by
  simp only [busyAt, List.any_eq_true, Bool.and_eq_true, decide_eq_true_eq, Descriptor.covers_iff]
  constructor
  · rintro ⟨d, hd, hbusy⟩
    obtain ⟨k, hk, rfl⟩ := Vector.mem_iff_getElem.1 (Vector.mem_toList_iff.1 hd)
    exact ⟨⟨k, hk⟩, hbusy⟩
  · rintro ⟨m, hbusy⟩
    exact ⟨mm.directory[m], Vector.mem_toList_iff.2 (Vector.getElem_mem m.isLt), hbusy⟩

theorem writeData_busy {s : State} (h : busyAt s.mm s.mm.pointer.toNat = true) (byte : Byte) : writeData byte s =
    { s with
      mm := { s.mm with pointer := s.mm.pointer + 1 }
      niu := { s.niu with faults := s.niu.faults ||| 0x08 } } := by
  simp only [writeData, if_pos h]
  rfl

theorem writeData_free {s : State} (h : ¬ busyAt s.mm s.mm.pointer.toNat = true) (byte : Byte) : writeData byte s =
    { s with mm := { s.mm with
      store := Memory.write s.mm.store s.mm.pointer.toNat byte
      pointer := s.mm.pointer + 1 } } := by
  simp only [writeData, if_neg h]

/-- While the bus takes cycles, a read drives the byte of the location that it names (R181). -/
theorem drives_ready {s : State} (h : s.busReady) (loc : Location) : s.drives false loc = some (s.readLocation loc) := by
  simp [State.drives, (busTaken_iff s).2 h]

/-- A read cycle with no irregularity: the location's side effect, and its byte for the host (R181). -/
theorem readCycle_whole {s : State} (h : s.busReady) (loc : Location) (side : State → State) :
    readCycle s .whole loc side = { side s with hostRead := some (s.readLocation loc) } := by
  simp only [readCycle, readDriven, onBus_ready s side h, drives_ready h]

/-! ## The two rows -/

theorem exec_mmDataWrite {s : State} (h : s.busReady) (byte : Byte) : exec (.mmDataWrite byte) s = .next (writeData byte s) :=
  congrArg Host.Outcome.next (onBus_ready s (writeData byte) h)

theorem exec_mmDataRead_whole {s : State} (h : s.busReady) : exec (.mmDataRead .whole) s =
    .next { s with
      mm := { s.mm with pointer := s.mm.pointer + 1 }
      hostRead := some (storeByte s.mm s.mm.pointer.toNat) } :=
  congrArg Host.Outcome.next (readCycle_whole h 0x0C _)

/-- Settles O29: the write by whether a busy message covers the pointer, the read by what a whole cycle drives; the bytes of a
written store are those of the store's laws. -/
theorem storeDataReadsAndWrites : Obligations.StoreDataReadsAndWrites := by
  intro s byte blocked hready hblocked
  have hbusy : blocked ↔ busyAt s.mm s.mm.pointer.toNat = true := hblocked.trans (busyAt_iff s.mm s.mm.pointer.toNat).symm
  have hnext := pointer_next_toNat s.mm.pointer
  refine ⟨fun hfree => ?_, fun hb => ?_, ?_⟩
  · have hw := (exec_mmDataWrite hready byte).trans (congrArg _ (writeData_free (mt hbusy.2 hfree) byte))
    refine ⟨_, _, hw, hnext, ?_⟩
    rintro _ rfl
    exact ⟨storeByte_write_same s.mm _ byte, fun i hi => storeByte_write_other s.mm _ i byte hi⟩
  · exact ⟨_, hnext, (exec_mmDataWrite hready byte).trans (congrArg _ (writeData_busy (hbusy.1 hb) byte))⟩
  · exact ⟨_, hnext, exec_mmDataRead_whole hready⟩

end Sys2Proof.Machine
end

section
/-! SUPPORT. The boundaries on a transmitter's line (R104 to R107): the end of a character, of a break's character time and of a
lead; what the end of the head's last part hands over, and what a looped receiver hears of what begins (R111). -/

namespace Sys2Proof.Machine

/-! ## The head leaves its queue (R86, R98, R105 to R107) -/

/-- The release of a message changes a busy count, and not where a message's bytes lie. -/
theorem messageByte_releaseMessage (m m' : Fin 32) (mm : MessageMemory) (i : Nat) :
    messageByte (releaseMessage m mm) m' i = messageByte mm m' i := by
  have hoffset : (releaseMessage m mm).directory[m'].offset = mm.directory[m'].offset := by
    by_cases hm : m = m'
    · subst hm
      simp [releaseMessage]
    · simp [releaseMessage, Fin.val_ne_of_ne hm]
  rw [messageByte, messageByte, hoffset, releaseMessage_byte]

/-- The transmitter whose head has gone begins the next request. -/
def Transmitter.beginsNext (mm : MessageMemory) (lead : Bool) (rest : List Request) (t : Transmitter) : Transmitter :=
  Transmitter.startHead mm lead { t with queue := rest }

section
variable (mm : MessageMemory) (lead : Bool) (rest : List Request) (t : Transmitter)

theorem beginsNext_queue : (t.beginsNext mm lead rest).queue = rest := startHead_queue mm lead _

theorem beginsNext_hasBegun : (t.beginsNext mm lead rest).hasBegun mm lead := startHead_hasBegun mm lead _

theorem beginsNext_releaseMessage (m : Fin 32) :
    t.beginsNext (releaseMessage m mm) lead rest = t.beginsNext mm lead rest := by
  unfold Transmitter.beginsNext Transmitter.startHead
  split <;> simp only [messageByte_releaseMessage]

end

section
variable {s : State} {ch : Channel} {rest : List Request} (body : Fin 32 → Source → NoticeBody)

/-- The queue is not what the line carries: what begins follows the same bits. -/
theorem putOnLine_withTx_queue (t : Transmitter) (queue : List Request) :
    putOnLine ch t (s.withTx ch { s.tx ch with queue := queue }) = putOnLine ch t s := by
  cases ch <;> rfl

theorem putOnLine_mm_niu (t : Transmitter) (mm : MessageMemory) (niu : Notices) :
    putOnLine ch t { s with mm := mm, niu := niu } = { putOnLine ch t s with mm := mm, niu := niu } := by
  cases hloop : s.ser.loop <;> simp only [putOnLine, hloop] <;> rfl

/-- A BREAK leaves with neither a busy count nor a notice, and a lead follows it. -/
theorem headLeaves_brk {n : Nat} (hq : (s.tx ch).queue = .brk n :: rest) :
    headLeaves ch body s = putOnLine ch ((s.tx ch).beginsNext s.mm true rest) s := by
  simp only [headLeaves, hq, requestLeaves, withTx_tx]
  exact putOnLine_withTx_queue _ rest

/-- A SEND leaves with its busy count and its notice, and the next request begins without a lead. -/
theorem headLeaves_send {m : Fin 32} {source : Source} {notify : Bool} (hq : (s.tx ch).queue = .send m source notify :: rest) :
    headLeaves ch body s = { putOnLine ch ((s.tx ch).beginsNext s.mm false rest) s with
      mm := releaseMessage m s.mm
      niu := s.niu.took s.present (if notify then [body m source] else []) } := by
  set left := s.withTx ch { s.tx ch with queue := rest } with hleft
  set niu := s.niu.took s.present (if notify then [body m source] else [])
  calc headLeaves ch body s
      = putOnLine ch ((s.tx ch).beginsNext (releaseMessage m s.mm) false rest)
          { left with mm := releaseMessage m s.mm, niu := niu } := by
        have hgone : requestLeaves (.send m source notify) body left =
            { left with mm := releaseMessage m s.mm, niu := niu } := postIf_eq_took notify _ _
        simp only [headLeaves, hq, ← hleft, hgone]
        congr 1
        exact congrArg _ (withTx_tx s ch _)
    _ = { putOnLine ch ((s.tx ch).beginsNext s.mm false rest) left with mm := releaseMessage m s.mm, niu := niu } := by
        rw [beginsNext_releaseMessage, putOnLine_mm_niu]
    _ = _ := by rw [hleft, putOnLine_withTx_queue]

theorem headLeaves_send_ser {m : Fin 32} {source : Source} {notify : Bool}
    (hq : (s.tx ch).queue = .send m source notify :: rest) :
    (headLeaves ch body s).ser = (putOnLine ch ((s.tx ch).beginsNext s.mm false rest) s).ser := by
  rw [headLeaves_send body hq]

theorem tx_of_ser {t : State} {x : Transmitter} (hser : t.ser = (putOnLine ch x s).ser) : t.tx ch = x :=
  calc t.tx ch = (putOnLine ch x s).tx ch := congrArg (fun ser => (ser.chans.get ch).tx) hser
    _ = x := by rw [putOnLine_tx, withTx_tx]

/-! ## What a looped receiver hears (R111, log 18) -/

/-- A receiver in a character hears what begins on the other channel's line behind the bits since its start bit's fall. -/
theorem putOnLine_heard {h : LoopHeard} (x : Transmitter) (hloop : s.ser.loop = true)
    (hchar : (s.rx (otherChannel ch)).state = .inChar) (hheard : (s.rx (otherChannel ch)).looped = some h) :
    ((putOnLine ch x s).rx (otherChannel ch)).looped = some (h.goesOn { s.chan ch with tx := x }) := by
  rw [putOnLine_rx_other, if_pos hloop]
  simp only [Receiver.hearsOn, hchar, hheard, if_true, Option.map_some]

/-- While the line has not rested, what begins on it is heard by its bits, or ends them where the line now rests. -/
theorem goesOn_out {h : LoopHeard} {since : Nat} (hafter : h.after = .carries since) (c : SerialChannel) :
    (∀ byte, c.tx.out = .char byte →
      h.goesOn c = { h with bits := h.bits ++ c.config.characterBits byte, after := .carries h.bits.length }) ∧
    (c.tx.out = .low →
      h.goesOn c = { h with bits := h.bits ++ List.replicate c.config.charBits false, after := .carries h.bits.length }) ∧
    (c.tx.out = .mark → h.goesOn c = { h with after := .rest }) := by
  obtain ⟨hmark, hrest⟩ | ⟨hmark, hbits⟩ := goesOn_carries h c since hafter
  · simp [hmark, hrest]
  · refine ⟨fun byte hout => ?_, fun hout => ?_, fun hout => absurd hout hmark⟩ <;>
      rw [hbits, SerialChannel.lineBits, hout]

/-! ## The rows of the three boundaries -/

/-- Where no tick is on its way to the transmitter, the boundary is all of its event. -/
theorem atBoundary_sends (h : s.sends ch) (f : State → State) : atBoundary ch s f = f s := by
  obtain ⟨hup, howed⟩ := h
  rw [atBoundary, whenMain_up s _ hup, settle_not_owed _ howed, withTx_self]

/-- The notice of a SEND that leaves at the end of a character: the bytes sent of an aborted one, else the ticks since it began
(R105, R107). -/
def Transmitter.endNotice (ch : Channel) (t : Transmitter) (m : Fin 32) (source : Source) : NoticeBody :=
  if t.state = .stopping then .txAborted ch m source (t.byteIndex + 1) else .txDone ch m source t.elapsed

theorem endNotice_stopping {t : Transmitter} (h : t.state = .stopping) :
    t.endNotice ch = fun m source => .txAborted ch m source (t.byteIndex + 1) :=
  funext₂ fun _ _ => if_pos h

theorem endNotice_done {t : Transmitter} (h : t.state ≠ .stopping) :
    t.endNotice ch = fun m source => .txDone ch m source t.elapsed :=
  funext₂ fun _ _ => if_neg h

section
variable {b : Byte} {m : Fin 32} {source : Source} {notify : Bool} (h : s.sends ch) (hout : (s.tx ch).out = .char b)
  (hq : (s.tx ch).queue = .send m source notify :: rest)
include h hout hq

theorem exec_txCharacterEnd_next (hrun : (s.tx ch).state ≠ .stopping)
    (hmore : (s.tx ch).byteIndex + 1 < s.mm.directory[m].length) :
    exec (.txCharacterEnd ch) s = .next (putOnLine ch { s.tx ch with
      byteIndex := (s.tx ch).byteIndex + 1, out := .char (messageByte s.mm m ((s.tx ch).byteIndex + 1)) } s) := by
  refine congrArg Host.Outcome.next ((atBoundary_sends h _).trans ?_)
  simp only [hout, hq, if_neg hrun, if_pos hmore]

theorem exec_txCharacterEnd_leaves
    (hend : (s.tx ch).state = .stopping ∨ s.mm.directory[m].length ≤ (s.tx ch).byteIndex + 1) :
    exec (.txCharacterEnd ch) s = .next (headLeaves ch ((s.tx ch).endNotice ch) s) := by
  refine congrArg Host.Outcome.next ((atBoundary_sends h _).trans ?_)
  simp only [hout, hq]
  by_cases hstop : (s.tx ch).state = .stopping
  · rw [if_pos hstop, endNotice_stopping hstop]
  · rw [if_neg hstop, if_neg (Nat.not_lt.2 (hend.resolve_left hstop)), endNotice_done hstop]

/-- Whichever comes next, the channels are what it makes of them as it begins on the line. -/
theorem exec_txCharacterEnd_ser {t : State} (ht : exec (.txCharacterEnd ch) s = .next t) :
    ∃ x, t.ser = (putOnLine ch x s).ser := by
  by_cases hend : (s.tx ch).state = .stopping ∨ s.mm.directory[m].length ≤ (s.tx ch).byteIndex + 1
  · cases (exec_txCharacterEnd_leaves h hout hq hend).symm.trans ht
    exact ⟨_, headLeaves_send_ser _ hq⟩
  · obtain ⟨hrun, hmore⟩ := not_or.1 hend
    cases (exec_txCharacterEnd_next h hout hq hrun (Nat.lt_of_not_le hmore)).symm.trans ht
    exact ⟨_, rfl⟩

end

theorem exec_txBreakTimeEnd (h : s.sends ch) (hout : (s.tx ch).out = .low) :
    exec (.txBreakTimeEnd ch) s = .next (
      if (s.tx ch).state = .stopping ∨ (s.tx ch).breakRemaining ≤ 1 then
        headLeaves ch (fun m source => .txAborted ch m source 0) s
      else putOnLine ch { s.tx ch with breakRemaining := (s.tx ch).breakRemaining - 1 } s) := by
  refine congrArg Host.Outcome.next ((atBoundary_sends h _).trans ?_)
  simp only [hout]

/-- An abort within the lead takes the head away with nothing sent (R107). -/
theorem exec_txLeadEnd_stopping (h : s.sends ch) (hout : (s.tx ch).out = .lead) (hstop : (s.tx ch).state = .stopping) :
    exec (.txLeadEnd ch) s = .next (headLeaves ch (fun m source => .txAborted ch m source 0) s) := by
  refine congrArg Host.Outcome.next ((atBoundary_sends h _).trans ?_)
  simp only [hout, if_pos hstop]

/-- What follows the lead of a request: the 0 of a BREAK, or the first character of a SEND (R98). -/
def Request.afterLead (mm : MessageMemory) : Request → TxOut
  | .brk _ => .low
  | .send m _ _ => .char (messageByte mm m 0)

theorem exec_txLeadEnd_begins {r : Request} (h : s.sends ch) (hout : (s.tx ch).out = .lead)
    (hstop : (s.tx ch).state ≠ .stopping) (hq : (s.tx ch).queue = r :: rest) :
    exec (.txLeadEnd ch) s = .next (putOnLine ch { s.tx ch with out := r.afterLead s.mm } s) := by
  refine congrArg Host.Outcome.next ((atBoundary_sends h _).trans ?_)
  simp only [hout, hq, if_neg hstop]
  cases r <;> rfl

end

/-! ## The two statements -/

/-- Settles O31: a byte that remains goes on the line, and else the head leaves; either way the line is what `putOnLine` makes of
the transmitter that results, which is what the looped receiver hears. -/
theorem characterEndSendsNextOrLeaves : Obligations.CharacterEndSendsNextOrLeaves := by
  intro s ch b m source notify rest hsends hout hq
  refine ⟨exec_txCharacterEnd_next hsends hout hq, fun hend => ⟨_, exec_txCharacterEnd_leaves hsends hout hq hend, ?_⟩,
    fun hoff x => by simp [putOnLine, hoff], ?_⟩
  · have hleft := headLeaves_send ((s.tx ch).endNotice ch) hq
    rw [tx_of_ser (headLeaves_send_ser _ hq)]
    exact ⟨beginsNext_queue _ _ _ _, beginsNext_hasBegun _ _ _ _, congrArg State.mm hleft, congrArg State.niu hleft,
      by rw [hleft]⟩
  · rintro hloop t _ rfl ht hchar h since hheard hafter
    obtain ⟨x, hser⟩ := exec_txCharacterEnd_ser hsends hout hq ht
    have hrx : t.rx (otherChannel ch) = (putOnLine ch x s).rx (otherChannel ch) :=
      congrArg (fun ser => (ser.chans.get (otherChannel ch)).rx) hser
    obtain ⟨hbyte, hlow, hmark⟩ := goesOn_out hafter { s.chan ch with tx := x }
    rw [hrx, putOnLine_heard x hloop hchar hheard, tx_of_ser hser]
    exact ⟨fun byte ho => congrArg _ (hbyte byte ho), fun ho => congrArg _ (hlow ho), fun ho => congrArg _ (hmark ho)⟩

/-- Settles O32: each boundary by the branch of its row that is taken, and a head that leaves by whether it is a BREAK or a
SEND. -/
theorem breakTimesAndLeadsEnd : Obligations.BreakTimesAndLeadsEnd := by
  intro s ch r rest hsends hq
  refine ⟨fun hout hbreak hleft => ?_, ?_, fun hout hrun => ⟨_, exec_txLeadEnd_begins hsends hout hrun hq, ?_, ?_⟩, ?_, ?_⟩
  · have hgoes : ¬ ((s.tx ch).state = .stopping ∨ (s.tx ch).breakRemaining ≤ 1) := by
      simp [hbreak]
      omega
    exact (exec_txBreakTimeEnd hsends hout).trans (congrArg _ (if_neg hgoes))
  · rintro n rfl hout hend
    exact ⟨_, (exec_txBreakTimeEnd hsends hout).trans (congrArg _ ((if_pos hend).trans (headLeaves_brk _ hq))),
      beginsNext_queue _ _ _ _, beginsNext_hasBegun _ _ _ _⟩
  · rintro n rfl
    rfl
  · rintro m source notify rfl
    rfl
  · rintro n rfl hout hstop
    exact ⟨_, (exec_txLeadEnd_stopping hsends hout hstop).trans (congrArg _ (headLeaves_brk _ hq)),
      beginsNext_queue _ _ _ _, beginsNext_hasBegun _ _ _ _⟩
  · rintro m source notify rfl hout hstop
    exact ⟨_, _, (exec_txLeadEnd_stopping hsends hout hstop).trans (congrArg _ (headLeaves_send _ hq)),
      beginsNext_queue _ _ _ _, beginsNext_hasBegun _ _ _ _, rfl⟩

end Sys2Proof.Machine
end

section
/-! SUPPORT. A receiver that hears its input (R115), and with the cross-loop on the samples that the other transmitter's line
gives it and the lows that can have lasted a character time (R111, R116 to R118, log 18). -/

namespace Sys2Proof.Machine

/-! ## Events of a receiver (R115) -/

theorem whenListening_hears {s : State} {ch : Channel} (h : s.hears ch) (f : State → State) : whenListening ch s f = f s := by
  rw [whenListening, whenMain_up s _ h.1, if_pos h.2]

/-- An event that changes nothing for a receiver that hears it changes nothing. -/
theorem whenListening_keeps {s : State} {f : State → State} (ch : Channel) (h : f s = s) : whenListening ch s f = s := by
  simp only [whenListening, whenMain, h, ite_self]

/-! ## Lows of a character time (R117, R118) -/

/-- The bits since the fall last that time, and none of them is a 1 before it is over. -/
theorem staysLow_iff (h : LoopHeard) (divisor bits : Nat) : h.staysLow divisor bits = true ↔
    bits * divisor ≤ h.bits.length * h.divisor ∧
      ∀ j : Nat, h.bits[j]? = some true → bits * divisor ≤ j * h.divisor := by
  simp only [LoopHeard.staysLow, Bool.and_eq_true, decide_eq_true_eq, List.all_eq_true, List.mem_range, Bool.or_eq_true,
    Bool.not_eq_true', List.getD_eq_getElem?_getD]
  refine and_congr_right fun _ => forall_congr' fun j => ?_
  by_cases hj : j < h.bits.length
  · cases hb : h.bits[j] <;> simp [hj, hb]
  · simp [hj]

theorem breakCanBe_iff (s : State) (ch : Channel) (low : LowWatch) : breakCanBe s ch low = true ↔ s.mayLastLow ch low := by
  unfold breakCanBe State.mayLastLow
  cases s.ser.loop <;> cases low.looped <;> simp [staysLow_iff]

theorem allLow_iff (s : State) (ch : Channel) (data : Byte) (parityBit stopBit : Bool) :
    allLow s ch data parityBit stopBit = true ↔ s.soundsAsBreak ch data parityBit stopBit := by
  unfold allLow State.soundsAsBreak
  cases hl : s.ser.loop
  · simp [and_assoc]
  · cases hh : (s.chan ch).rx.looped <;> simp [hh, staysLow_iff, and_assoc]

/-! ## Levels that the line shows (R111) -/

section
variable {h : LoopHeard} {moment : Nat} {level : Bool}

/-- Within a bit the line shows that bit. -/
theorem shows_within_bit {b : Bool} (now : Bool) (hb : h.bits[moment / h.unit]? = some b) (hm : moment % h.unit ≠ 0) :
    h.shows now moment level = (b == level) := by
  simp [LoopHeard.shows, hb, hm]

/-- A line that rests after its last bit shows no 0 past it, nor in an event taken now where it ends. -/
theorem shows_at_rest {now : Bool} (hu : 1 ≤ h.unit) (hrest : h.after = .rest) (hp : h.bits.length * h.unit ≤ moment)
    (hn : now = true ∨ h.bits.length * h.unit < moment) : h.shows now moment false = false := by
  have hbits : h.bits[moment / h.unit]? = none := List.getElem?_eq_none ((Nat.le_div_iff_mul_le hu).2 hp)
  have hmoved : h.hasMoved moment = true := by simp [LoopHeard.hasMoved, hrest, LoopHeard.past, hp]
  obtain rfl | hlt := hn
  · simp [LoopHeard.shows, hbits, hrest, hmoved]
  · by_cases he : moment % h.unit = 0
    · have hedge : h.bits[moment / h.unit - 1]? = none := by
        refine List.getElem?_eq_none ?_
        have hdiv : h.bits.length < moment / h.unit :=
          lt_of_mul_lt_mul_right (hlt.trans_eq (Nat.div_mul_cancel (Nat.dvd_of_mod_eq_zero he)).symm) (Nat.zero_le _)
        omega
      simp [LoopHeard.shows, hbits, hrest, hedge]
    · simp [LoopHeard.shows, hbits, hrest, he]

theorem not_reached_of_carries {since : Nat} (hc : h.after = .carries since) (hp : h.bits.length * h.unit < moment) :
    h.reached moment = false := by
  simp [LoopHeard.reached, hc, hp]

end

/-! ## Samples that the line gives (R111, R116, R117) -/

section
variable {s : State} {ch : Channel} {halves : Nat} {samples : List Bool}

/-- A test by number of each of some bits. -/
theorem all_range_getD_iff (bits : List Bool) (d : Bool) (p : Nat → Bool → Bool) :
    (List.range bits.length).all (fun k => p k (bits.getD k d)) = true ↔ ∀ k b, bits[k]? = some b → p k b = true := by
  simp only [List.all_eq_true, List.mem_range, List.getD_eq_getElem?_getD, List.getElem?_eq_some_iff]
  exact ⟨fun hp k b ⟨hk, hb⟩ => by simpa [hk, hb] using hp k hk, fun hp k hk => by simpa [hk] using hp k _ ⟨hk, rfl⟩⟩

theorem samplesCanBe_off (hl : s.ser.loop = false) : samplesCanBe s ch halves samples = true := by simp [samplesCanBe, hl]

/-- The samples that a looped receiver can have taken since a fall: the line has come to the last of them, it shows each, and a
sample of this very event past its bits is at a level that the transmitter now can put out. -/
theorem samplesCanBe_iff {h : LoopHeard} (hl : s.ser.loop = true) (hh : (s.rx ch).looped = some h) :
    samplesCanBe s ch halves samples = true ↔
      h.reached (halves * (s.chan ch).config.divisor) = true ∧
      (∀ k level, samples[k]? = some level →
        h.shows (2 * k + 1 == halves) ((2 * k + 1) * (s.chan ch).config.divisor) level = true) ∧
      (2 * samples.length = halves + 1 → h.bits.length * h.unit ≤ halves * (s.chan ch).config.divisor →
        s.mayStandAt ch (samples.getLastD true)) := by
  simp only [samplesCanBe, hl, hh, Bool.not_true, Bool.false_or, LoopHeard.gives, Bool.and_eq_true,
    all_range_getD_iff samples true
      fun k level => h.shows (2 * k + 1 == halves) ((2 * k + 1) * (s.chan ch).config.divisor) level,
    and_assoc, Bool.or_eq_true,
    inputCanBe_said, bne_iff_ne, LoopHeard.past, Bool.not_eq_true', decide_eq_false_iff_not, ne_eq,
    imp_iff_not_or, or_assoc]

end

end Sys2Proof.Machine
end

section
/-! SUPPORT. START_BIT_SAMPLE (R116, R120, R136): the start bit's sample at 1 and at 0, within a frame and outside one. -/

namespace Sys2Proof.Machine

/-! ## Samples that cannot be -/

theorem exec_startBitSample_keeps {s : State} {ch : Channel} {level : Bool} (h : samplesCanBe s ch 1 [level] = false) :
    exec (.startBitSample ch level) s = .next s :=
  congrArg Host.Outcome.next (whenListening_keeps ch (if_pos (.inr (.inr (Bool.eq_false_iff.1 h)))))

/-- Half a bit time after the fall, with the cross-loop on, the sample is the bit that the line then carries: 1 at rest, none that
is yet to come, and past the last bit none that the line does not now carry. -/
theorem startSample_not_given {s : State} {ch : Channel} {level : Bool} {h : LoopHeard} {d unit : Nat}
    (hl : s.ser.loop = true) (hh : (s.rx ch).looped = some h) (hd : d = (s.chan ch).config.divisor) (hunit : unit = 2 * h.divisor)
    (hu : 1 ≤ unit)
    (hno : (∃ b, h.bits[d / unit]? = some b ∧ d % unit ≠ 0 ∧ b ≠ level) ∨
      (h.bits.length * unit ≤ d ∧ h.after = .rest ∧ level = false) ∨
      (h.bits.length * unit < d ∧ ∃ since, h.after = .carries since) ∨
      (h.bits.length * unit ≤ d ∧ ¬ s.mayStandAt ch level)) :
    samplesCanBe s ch 1 [level] = false := by
  obtain rfl : unit = h.unit := hunit
  rw [Bool.eq_false_iff, ne_eq, samplesCanBe_iff hl hh, ← hd]
  rintro ⟨hreached, hshows, hstands⟩
  have hshown : h.shows true d level = true := by simpa using hshows 0 level rfl
  rw [one_mul] at hreached hstands
  obtain ⟨b, hb, hm, hne⟩ | ⟨hp, hrest, rfl⟩ | ⟨hp, since, hc⟩ | ⟨hp, hnot⟩ := hno
  · rw [shows_within_bit true hb hm] at hshown
    exact hne (beq_iff_eq.1 hshown)
  · rw [shows_at_rest hu hrest hp (.inl rfl)] at hshown
    exact Bool.false_ne_true hshown
  · rw [not_reached_of_carries hc hp] at hreached
    exact Bool.false_ne_true hreached
  · exact hnot (hstands rfl hp)

/-! ## The start of a frame (R120, R135, R136) -/

theorem slotFree_iff (cu : Capture) :
    cu.slotFree = true ↔ cu.opened.a.toList.length + cu.opened.b.toList.length + cu.queue.length < 32 :=
  decide_eq_true_iff

theorem dropFrame_eq (ch : Channel) (s : State) : dropFrame ch s = { s with
    cu := { s.cu with dropped := s.cu.dropped.set ch (min (s.cu.dropped.get ch + 1) 255) }
    niu := { s.niu with faults := s.niu.faults ||| 0x04 } } := rfl

section
variable {s : State} {ch : Channel} (h : s.hears ch) (hchar : (s.rx ch).state = .inChar)
  (hstart : (s.rx ch).startConfirmed = false)
include h hchar hstart

theorem exec_startBitSample_high (hcan : samplesCanBe s ch 1 [true] = true) : exec (.startBitSample ch true) s =
    .next (s.withRx ch (
      if (s.rx ch).frame = .none then
        { s.rx ch with
          state := .idle, noted := none, lowWatch := none, input := some true, place := placeAtSample s ch 1 }
      else { s.rx ch with
        state := .inFrame, lowWatch := none, input := some true, place := placeAtSample s ch 1 })) := by
  refine congrArg Host.Outcome.next ((whenListening_hears h _).trans ?_)
  simp only [hchar, hstart, hcan, ne_eq, not_true_eq_false, Bool.false_eq_true, or_self, if_false, if_true]
  split <;> rfl

theorem exec_startBitSample_low (hcan : samplesCanBe s ch 1 [false] = true) : exec (.startBitSample ch false) s =
    .next (
      if (s.rx ch).frame = .none then
        startFrame ch (s.withRx ch { s.rx ch with startConfirmed := true, place := placeAtSample s ch 1 })
      else s.withRx ch { s.rx ch with startConfirmed := true, place := placeAtSample s ch 1 }) := by
  refine congrArg Host.Outcome.next ((whenListening_hears h _).trans ?_)
  simp only [hchar, hstart, hcan, ne_eq, not_true_eq_false, Bool.false_eq_true, or_self, if_false]

end

section
variable {s : State} {ch : Channel} {r : Receiver}

/-- A frame that finds a free slot is OPEN, with a fresh record stamped at the fall, its bytes to come behind those that its ring
holds. -/
theorem startFrame_opens {stamp : Stamp} (hn : r.noted = some stamp)
    (hfree : s.cu.opened.a.toList.length + s.cu.opened.b.toList.length + s.cu.queue.length < 32) :
    startFrame ch (s.withRx ch r) =
      { s.withRx ch { r with chars := 0, flags := { parity := false, framing := false }, frame := .opened } with
        cu := { s.cu with opened := s.cu.opened.set ch (some {
          source := .frame ch, stamp := stamp, length := 0,
          flags := { parity := false, framing := false, brk := false, truncated := false },
          endCause := none, matched := [],
          place := ((s.cu.rings.get ch).start + (s.cu.rings.get ch).held.length) % 512 }) } } := by
  have hslot : (s.withRx ch r).cu.slotFree = true := (slotFree_iff _).2 hfree
  simp only [startFrame, withRx_rx, withRx_withRx, if_pos hslot, hn]
  rfl

theorem startFrame_drops (hfull : 32 ≤ s.cu.opened.a.toList.length + s.cu.opened.b.toList.length + s.cu.queue.length) :
    startFrame ch (s.withRx ch r) =
      { s.withRx ch { r with chars := 0, flags := { parity := false, framing := false }, frame := .dropped } with
        cu := { s.cu with dropped := s.cu.dropped.set ch (min (s.cu.dropped.get ch + 1) 255) }
        niu := { s.niu with faults := s.niu.faults ||| 0x04 } } := by
  have hslot : ¬ (s.withRx ch r).cu.slotFree = true := mt (slotFree_iff _).1 (Nat.not_lt.2 hfull)
  simp only [startFrame, withRx_rx, withRx_withRx, if_neg hslot]
  rfl

end

/-- Settles O38: a sample that the line does not give changes nothing, and one that it gives is taken by its level, by whether a
frame is in hand, and by whether a record slot is free. -/
theorem startBitStartsAFrame : Obligations.StartBitStartsAFrame := by
  intro s ch h hchar hstart
  refine ⟨fun _ _ => exec_startBitSample_keeps, fun _ h' d unit hl hh hd hunit hu hno =>
    exec_startBitSample_keeps (startSample_not_given hl hh hd hunit hu hno), fun hcan => ?_, fun hcan => ?_⟩
  · exact exec_startBitSample_high h hchar hstart (hcan.elim samplesCanBe_off id)
  · have htaken := exec_startBitSample_low h hchar hstart (hcan.elim samplesCanBe_off id)
    exact ⟨fun hframe => htaken.trans (congrArg _ (if_neg hframe)),
      fun _ hframe hnoted hfree => htaken.trans (congrArg _ ((if_pos hframe).trans (startFrame_opens hnoted hfree))),
      fun hframe hfull => htaken.trans (congrArg _ ((if_pos hframe).trans (startFrame_drops hfull)))⟩

end Sys2Proof.Machine
end

section
/-! SUPPORT. The end of a frame (R121, R125, R139): what it leaves of the receiver, and of the Capture Unit where the frame
is OPEN. -/

namespace Sys2Proof.Machine

/-- The state of a receiver behind the end of its frame (R121): BREAK behind a break, else IDLE. -/
def EndCause.leaves (cause : EndCause) : RxState := if cause = .brk then .brk else .idle

/-- An open record as it closes with a cause and the receiver's flags (R125, R139). -/
def CaptureRecord.closedWith (r : CaptureRecord) (cause : EndCause) (flags : FrameFlags) : CaptureRecord :=
  { r with
    endCause := some cause
    flags := { parity := flags.parity, framing := flags.framing, brk := decide (cause = .brk), truncated := r.flags.truncated } }

section
variable {s : State} {ch : Channel}

theorem closeOpened_rx (cause : EndCause) (flags : FrameFlags) : (closeOpened ch cause flags s).rx ch = s.rx ch :=
  congrArg (fun ser => (ser.chans.get ch).rx) (closeOpened_ser ch cause flags s)

/-- Whether a record closes or not, the receiver's frame parts are cleared. -/
theorem endFrame_eq (cause : EndCause) : endFrame ch cause s =
    (if (s.rx ch).frame = .opened then closeOpened ch cause (s.rx ch).flags s else s).withRx ch
      ((s.rx ch).cleared cause.leaves) := by
  unfold endFrame
  by_cases h : (s.rx ch).frame = .opened
  · simp only [if_pos h, closeOpened_rx]
    rfl
  · simp only [if_neg h]
    rfl

theorem endFrame_ser (cause : EndCause) :
    (endFrame ch cause s).ser = (s.withRx ch ((s.rx ch).cleared cause.leaves)).ser := by
  rw [endFrame_eq]
  split
  · simp only [State.withRx, State.chan, closeOpened_ser]
  · rfl

/-- A DROPPED frame just ends. -/
theorem endFrame_unopened (cause : EndCause) (h : (s.rx ch).frame ≠ .opened) :
    endFrame ch cause s = s.withRx ch ((s.rx ch).cleared cause.leaves) := by
  rw [endFrame_eq, if_neg h]

/-- The Capture Unit, the Trigger Unit and the notices are what the close makes of them, whatever becomes of the receiver. -/
theorem closeOpened_closes {r : CaptureRecord} (cause : EndCause) (hr : s.cu.opened.get ch = some r) (x : Receiver) :
    s.frameClosed ((closeOpened ch cause (s.rx ch).flags s).withRx ch x) ch r cause := by
  have hcu := closeRecord_cu (r.closedWith cause (s.rx ch).flags) { s with cu := { s.cu with opened := s.cu.opened.set ch none } }
  have hclosed := closeRecord_closed (r.closedWith cause (s.rx ch).flags)
    { s with cu := { s.cu with opened := s.cu.opened.set ch none } }
  rw [CaptureRecord.closedWith] at hcu hclosed
  rw [closeOpened, hr]
  refine ⟨hclosed, ?_⟩
  simp only [withRx_cu, hcu, get_set_same, get_set_other, and_self]

/-- An OPEN frame ends with its record closed, and nothing but reception changes. -/
theorem endFrame_closes {r : CaptureRecord} (cause : EndCause) (h : (s.rx ch).frame = .opened)
    (hr : s.cu.opened.get ch = some r) :
    s.frameClosed (endFrame ch cause s) ch r cause ∧ s.sameButReception (endFrame ch cause s) ch ∧
      (endFrame ch cause s).rx ch = (s.rx ch).cleared cause.leaves := by
  have hrx : (endFrame ch cause s).rx ch = (s.rx ch).cleared cause.leaves := by rw [endFrame_eq, withRx_rx]
  refine ⟨?_, ⟨endFrame_frame ch cause s, ?_⟩, hrx⟩
  · rw [endFrame_eq, if_pos h]
    exact closeOpened_closes cause hr _
  · rw [hrx, endFrame_ser]
    rfl

end

/-! ## What else a receiver holds -/

section
variable {s t : State} {ch : Channel} {x : Receiver}

/-- Of the receiver, the close of its record takes the frame flags alone. -/
theorem frameClosed_of_withRx {r : CaptureRecord} {cause : EndCause} (h : (s.withRx ch x).frameClosed t ch r cause)
    (hx : x.flags = (s.rx ch).flags) : s.frameClosed t ch r cause := by
  rw [State.frameClosed, withRx_rx, hx] at h
  exact h

theorem sameButReception_of_withRx (h : (s.withRx ch x).sameButReception t ch) : s.sameButReception t ch := by
  cases ch <;> exact h

end

end Sys2Proof.Machine
end

section
/-! SUPPORT. The bits of a character (R97): those before its stop bits, and the first stop bit, at 1. -/

namespace Sys2Proof.Machine

/-- The bits of a character before its stop bits. -/
def ChannelConfig.beforeStop (c : ChannelConfig) (b : Byte) : List Bool :=
  [false] ++ dataBitList c.dataBits.count b ++ (c.parityBit b).toList

section
variable (c : ChannelConfig) (b : Byte)

theorem stopBits_pos (stop : StopBits) : 1 ≤ stop.count := by cases stop <;> decide

theorem beforeStop_length : (c.beforeStop b).length + c.stopBits.count = c.charBits := by
  simp only [ChannelConfig.beforeStop, ChannelConfig.charBits, ChannelConfig.parityBit, dataBitList]
  cases c.parity <;> simp [Nat.add_comm 1]

theorem beforeStop_length_lt : (c.beforeStop b).length < c.charBits := by
  have := beforeStop_length c b
  have := stopBits_pos c.stopBits
  omega

/-- Behind the bits before its stop bits a character is at 1. -/
theorem characterBits_eq : ∃ rest, (∀ x ∈ rest, x = true) ∧ c.characterBits b = c.beforeStop b ++ true :: rest := by
  refine ⟨List.replicate (c.stopBits.count - 1) true, fun x => List.eq_of_mem_replicate, ?_⟩
  rw [← List.replicate_succ, Nat.sub_add_cancel (stopBits_pos _)]
  rfl

theorem characterBits_length : (c.characterBits b).length = c.charBits := by
  rw [← beforeStop_length c b]
  simp [ChannelConfig.characterBits, ChannelConfig.beforeStop]
  omega

theorem characterBits_stop (more : List Bool) : (c.characterBits b ++ more)[(c.beforeStop b).length]? = some true := by
  obtain ⟨rest, -, he⟩ := characterBits_eq c b
  simp [he]

end

end Sys2Proof.Machine
end

section
/-! SUPPORT. The samples of a character against a character on the line (R97, R117): what each says of the data bits, the parity
bit and the first stop bit. -/

namespace Sys2Proof.Machine

/-- The samples of a character before that of its first stop bit. -/
def ChannelConfig.samplesBeforeStop (c : ChannelConfig) (data : Byte) (parityBit : Bool) : List Bool :=
  [false] ++ dataBitList c.dataBits.count data ++ (if c.parity = .none then [] else [parityBit])

section
variable (c : ChannelConfig) (data b : Byte) (parityBit stopBit : Bool)

theorem samples_eq : c.samples data parityBit stopBit = c.samplesBeforeStop data parityBit ++ [stopBit] := rfl

theorem samplesBeforeStop_length : (c.samplesBeforeStop data parityBit).length = (c.beforeStop b).length := by
  simp only [ChannelConfig.samplesBeforeStop, ChannelConfig.beforeStop, ChannelConfig.parityBit, dataBitList]
  cases c.parity <;> simp

theorem samples_length : (c.samples data parityBit stopBit).length = (c.beforeStop b).length + 1 := by
  rw [samples_eq, List.length_append, samplesBeforeStop_length c data b]
  rfl

theorem completeAt_true : c.completeAt true = 2 * (c.beforeStop b).length + 1 := by
  have := beforeStop_length c b
  simp only [ChannelConfig.completeAt, if_true]
  omega

/-- The byte of a character is its data bits. -/
theorem dataOf_eq_iff : c.dataOf data = c.dataOf b ↔ dataBitList c.dataBits.count data = dataBitList c.dataBits.count b := by
  have hmask : ∀ i, (127#8).getLsbD i = decide (i < 7) := fun i => by
    have hbit : Nat.testBit 127 i = decide (i < 7) := Nat.testBit_two_pow_sub_one 7 i
    rw [BitVec.getLsbD_ofNat, hbit]
    simp
    omega
  simp only [dataBitList, List.map_inj_left, List.mem_range]
  cases hd : c.dataBits <;> simp only [ChannelConfig.dataOf, hd, DataBits.count]
  · refine ⟨fun h i hi => ?_, fun h => BitVec.eq_of_getLsbD_eq fun i _ => ?_⟩
    · simpa [BitVec.getLsbD_and, hmask, hi] using congrArg (fun x : Byte => x.getLsbD i) h
    · by_cases hi : i < 7
      · simp [BitVec.getLsbD_and, hmask, hi, h i hi]
      · simp [BitVec.getLsbD_and, hmask, hi]
  · exact ⟨fun h i _ => by rw [h], fun h => BitVec.eq_of_getLsbD_eq h⟩

theorem samplesBeforeStop_eq_iff : c.samplesBeforeStop data parityBit = c.beforeStop b ↔
    c.dataOf data = c.dataOf b ∧ (c.parity = .none ∨ c.parityBit b = some parityBit) := by
  have hlength : (dataBitList c.dataBits.count data).length = (dataBitList c.dataBits.count b).length := by simp [dataBitList]
  have hparity : (if c.parity = .none then [] else [parityBit]) = (c.parityBit b).toList ↔
      c.parity = .none ∨ c.parityBit b = some parityBit := by
    unfold ChannelConfig.parityBit
    cases c.parity <;> simp [eq_comm]
  rw [dataOf_eq_iff, ← hparity]
  simp only [ChannelConfig.samplesBeforeStop, ChannelConfig.beforeStop, List.append_assoc, List.append_cancel_left_eq]
  exact ⟨fun h => List.append_inj h hlength, fun h => by rw [h.1, h.2]⟩

/-- The samples are the first bits of a character's where they have its data bits, its parity bit, and a first stop bit at 1. -/
theorem samples_begin_iff (more : List Bool) : c.samples data parityBit stopBit <+: c.characterBits b ++ more ↔
    stopBit = true ∧ c.dataOf data = c.dataOf b ∧ (c.parity = .none ∨ c.parityBit b = some parityBit) := by
  obtain ⟨rest, -, hbits⟩ := characterBits_eq c b
  have hlength := samplesBeforeStop_length c data b parityBit
  rw [samples_eq, hbits, ← samplesBeforeStop_eq_iff, List.append_assoc, List.cons_append]
  constructor
  · rintro ⟨tail, h⟩
    rw [List.append_assoc] at h
    obtain ⟨hbefore, hstop⟩ := List.append_inj h hlength
    exact ⟨(List.cons.inj hstop).1, hbefore⟩
  · rintro ⟨rfl, hbefore⟩
    rw [hbefore]
    exact ⟨rest ++ more, by simp⟩

end

end Sys2Proof.Machine
end

section
/-! SUPPORT. RX_CHARACTER_COMPLETE (R117, R122, R124, R138): the samples that the looped line gives it, what a complete character
makes of its frame, and the falls that it leaves behind. -/

namespace Sys2Proof.Machine

/-! ## The samples of a character on the looped line (R111, R117) -/

section
variable {s : State} {ch : Channel} {h : LoopHeard}

/-- A receiver at the line's own divisor samples each bit in its middle. -/
theorem shows_own_middle {d k : Nat} (hd : h.divisor = d) (hpos : 1 ≤ d) (hk : k < h.bits.length) (now level : Bool) :
    h.shows now ((2 * k + 1) * d) level = true ↔ h.bits[k]? = some level := by
  have hunit : h.unit = 2 * d := by rw [LoopHeard.unit, hd]
  have hmoment : (2 * k + 1) * d = d + 2 * d * k := by ring
  have hdiv : (2 * k + 1) * d / h.unit = k := by
    rw [hmoment, hunit, Nat.add_mul_div_left _ _ (by omega), Nat.div_eq_of_lt (by omega), Nat.zero_add]
  have hmod : (2 * k + 1) * d % h.unit ≠ 0 := by
    rw [hmoment, hunit, Nat.add_mul_mod_self_left, Nat.mod_eq_of_lt (by omega)]
    omega
  have hbit : h.bits[(2 * k + 1) * d / h.unit]? = some h.bits[k] := by rw [hdiv, List.getElem?_eq_getElem hk]
  rw [shows_within_bit now hbit hmod, List.getElem?_eq_getElem hk]
  simp

/-- Channels configured alike hear a character as it was sent. -/
theorem samplesCanBe_alike {c : ChannelConfig} {b data : Byte} {parityBit stopBit : Bool} {more : List Bool} {after : LineAfter}
    (hc : (s.chan ch).config = c) (hl : s.ser.loop = true) (hd : 1 ≤ c.divisor)
    (hh : (s.rx ch).looped = some { bits := c.characterBits b ++ more, divisor := c.divisor, after := after }) :
    samplesCanBe s ch (c.completeAt stopBit) (c.samples data parityBit stopBit) = true ↔
      stopBit = true ∧ c.dataOf data = c.dataOf b ∧ (c.parity = .none ∨ c.parityBit b = some parityBit) := by
  have hlength := samples_length c data b parityBit stopBit
  have hstop := beforeStop_length_lt c b
  have hbits : (c.characterBits b ++ more).length = c.charBits + more.length := by
    rw [List.length_append, characterBits_length]
  have hshows : (∀ k level, (c.samples data parityBit stopBit)[k]? = some level →
      LoopHeard.shows { bits := c.characterBits b ++ more, divisor := c.divisor, after := after }
        (2 * k + 1 == c.completeAt stopBit) ((2 * k + 1) * c.divisor) level = true) ↔
      c.samples data parityBit stopBit <+: c.characterBits b ++ more := by
    rw [List.prefix_iff_getElem?]
    refine ⟨fun hs k hk => ?_, fun hp k level hk => ?_⟩
    · exact (shows_own_middle rfl hd (by simp only; omega) _ _).1 (hs k _ (List.getElem?_eq_getElem hk))
    · obtain ⟨hk', rfl⟩ := List.getElem?_eq_some_iff.1 hk
      exact (shows_own_middle rfl hd (by simp only; omega) _ _).2 (hp k hk')
  rw [samplesCanBe_iff hl hh, hc, hshows, samples_begin_iff]
  refine ⟨fun ⟨_, hp, _⟩ => hp, fun hp => ?_⟩
  obtain rfl := hp.1
  have hend : c.completeAt true * c.divisor < (c.characterBits b ++ more).length * (2 * c.divisor) := by
    rw [hbits, completeAt_true c b, ← Nat.mul_assoc]
    exact Nat.mul_lt_mul_of_pos_right (by omega) hd
  refine ⟨?_, hp, fun _ hpast => absurd hend (Nat.not_lt.2 hpast)⟩
  unfold LoopHeard.reached
  split
  · exact decide_eq_true hend.le
  · rfl
  · rfl

/-- No character is heard past the last bit sent but at the mark at which the line rests. -/
theorem characterSamples_not_given {unit halves : Nat} {samples : List Bool} (hl : s.ser.loop = true)
    (hh : (s.rx ch).looped = some h) (hunit : unit = 2 * h.divisor) (hu : 1 ≤ unit)
    (hno : (h.after = .rest ∧ ∃ k, samples[k]? = some false ∧
        h.bits.length * unit < (2 * k + 1) * (s.chan ch).config.divisor) ∨
      ((∃ since, h.after = .carries since) ∧ h.bits.length * unit < halves * (s.chan ch).config.divisor)) :
    samplesCanBe s ch halves samples = false := by
  obtain rfl : unit = h.unit := hunit
  rw [Bool.eq_false_iff, ne_eq, samplesCanBe_iff hl hh]
  rintro ⟨hreached, hshows, -⟩
  obtain ⟨hrest, k, hk, hp⟩ | ⟨⟨since, hcarries⟩, hp⟩ := hno
  · exact Bool.false_ne_true ((shows_at_rest hu hrest hp.le (.inr hp)).symm.trans (hshows k false hk))
  · exact Bool.false_ne_true ((not_reached_of_carries hcarries hp).symm.trans hreached)

end

/-! ## The parity (R97, R117) -/

/-- One bit more changes whether a number of bits is odd where it is a 1. -/
theorem odd_add_bit (n : Nat) (b : Bool) : ((n + b.toNat) % 2 == 1) = ((n % 2 == 1) ^^ b) := by
  rw [Bool.eq_iff_iff]
  cases b <;> simp
  omega

theorem oddOnes_eq (bits : List Bool) : oddOnes bits = (bits.count true % 2 == 1) := by
  have hfold : ∀ acc : Bool, bits.foldl (fun acc b => acc ^^ b) acc = (acc ^^ (bits.count true % 2 == 1)) := by
    induction bits with
    | nil => simp
    | cons b rest ih =>
      intro acc
      have hcount : (b :: rest).count true = rest.count true + b.toNat := by cases b <;> simp
      rw [List.foldl_cons, ih, hcount, odd_add_bit, Bool.xor_assoc, Bool.xor_comm b]
  simpa [oddOnes] using hfold false

theorem count_dataBitList (n : Nat) (b : Byte) :
    (dataBitList n b).count true = ((List.range n).filter fun i => b.getLsbD i).length := by
  rw [dataBitList, List.count, List.countP_map, List.countP_eq_length_filter]
  congr 2
  funext i
  simp

/-- The parity bit heard is wrong where the bits of 1 heard, with it, are odd in number under even parity, or even under odd. -/
theorem parityWrong_eq (c : ChannelConfig) (data : Byte) (parityBit : Bool) {ones : Nat}
    (hones : ones = ((List.range c.dataBits.count).filter fun i => data.getLsbD i).length + (bitByte parityBit).toNat) :
    c.parityWrong data parityBit = match c.parity with
      | .none => false
      | .even => ones % 2 == 1
      | .odd => ones % 2 == 0 := by
  have hbit : (bitByte parityBit).toNat = parityBit.toNat := by cases parityBit <;> rfl
  have heven : ∀ n : Nat, (n % 2 == 0) = !(n % 2 == 1) := fun n => by
    obtain h | h := Nat.mod_two_eq_zero_or_one n <;> simp [h]
  rw [← count_dataBitList, hbit] at hones
  subst hones
  unfold ChannelConfig.parityWrong ChannelConfig.parityBit
  cases c.parity with
  | none => rfl
  | even => simp only [odd_add_bit, oddOnes_eq, Bool.bne_eq_xor]
  | odd => simp only [heven, odd_add_bit, oddOnes_eq, Bool.not_xor]

/-! ## A complete character (R122, R124, R138) -/

/-- The part with a receiver's character counted, and its byte handed on where its frame is OPEN (R122, R138). -/
def State.characterTaken (s : State) (ch : Channel) (r : Receiver) (byte : Byte) : State :=
  if r.frame = .opened then { s.withRx ch r with cu := storeFrameByte ch byte s.cu } else s.withRx ch r

/-- Why a frame ends with a byte: its terminator before its maximum length (R124). -/
def Receiver.endsWith (r : Receiver) (byte : Byte) : Option EndCause :=
  if r.rules.terminator = some byte then some .terminator
  else if r.rules.maxLength ≤ r.chars then some .maxLength else none

theorem endsWith_leaves {r : Receiver} {byte : Byte} {cause : EndCause} (h : r.endsWith byte = some cause) :
    cause.leaves = .idle := by
  unfold Receiver.endsWith at h
  split_ifs at h <;> cases h <;> rfl

section
variable (s : State) (ch : Channel) (r : Receiver) (byte : Byte)

theorem characterTaken_rx : (s.characterTaken ch r byte).rx ch = r := by
  unfold State.characterTaken
  split <;> exact withRx_rx s ch r

theorem characterTaken_ser : (s.characterTaken ch r byte).ser = (s.withRx ch r).ser := by
  unfold State.characterTaken
  split <;> rfl

/-- A character is taken, and then its frame ends or goes on. -/
theorem takeCharacter_eq (parityWrong stopBit : Bool) : takeCharacter ch byte parityWrong stopBit (s.withRx ch r) =
    let taken := s.characterTaken ch (r.counted parityWrong stopBit) byte
    ((r.counted parityWrong stopBit).endsWith byte).elim taken fun cause => endFrame ch cause taken := by
  simp only [takeCharacter, withRx_rx, withRx_withRx, State.characterTaken, Receiver.endsWith]
  split_ifs <;> rfl

/-- Of the channels a character changes the receiver alone, and not its place on the line. -/
theorem takeCharacter_ser (parityWrong stopBit : Bool) : ∃ x : Receiver, x.place = r.place ∧
    (takeCharacter ch byte parityWrong stopBit (s.withRx ch r)).ser = (s.withRx ch x).ser := by
  have htaken (x : Receiver) :
      ((s.characterTaken ch (r.counted parityWrong stopBit) byte).withRx ch x).ser = (s.withRx ch x).ser := by
    simp only [State.withRx, State.chan, characterTaken_ser, get_set_same, set_set]
  rw [takeCharacter_eq]
  cases (r.counted parityWrong stopBit).endsWith byte with
  | none => exact ⟨r.counted parityWrong stopBit, rfl, characterTaken_ser s ch _ byte⟩
  | some cause =>
    refine ⟨(r.counted parityWrong stopBit).cleared cause.leaves, rfl, (endFrame_ser cause).trans ?_⟩
    rw [characterTaken_rx, htaken]

end

/-! ### The byte of an OPEN frame (R138) -/

section
variable {cu : Capture} {ch : Channel} {r : CaptureRecord} (byte : Byte) (hr : cu.opened.get ch = some r)
include hr

theorem storeFrameByte_room (h : r.flags.truncated = false ∧ (cu.rings.get ch).held.length < 512) :
    storeFrameByte ch byte cu = { cu with
      rings := cu.rings.set ch { cu.rings.get ch with held := (cu.rings.get ch).held ++ [byte] }
      opened := cu.opened.set ch (some { r with length := r.length + 1 }) } := by
  simp [storeFrameByte, hr, h, Config.ringSize]

theorem storeFrameByte_full (h : ¬ (r.flags.truncated = false ∧ (cu.rings.get ch).held.length < 512)) :
    storeFrameByte ch byte cu = { cu with
      opened := cu.opened.set ch (some { r with flags := { r.flags with truncated := true } }) } := by
  have hfull : ¬ (!r.flags.truncated && decide ((cu.rings.get ch).held.length < Config.ringSize)) = true := by
    rwa [Bool.and_eq_true, Bool.not_eq_true', decide_eq_true_eq]
  simp only [storeFrameByte, hr, if_neg hfull]

end

/-! ### The frame of a character (R122, R124, R138) -/

section
variable {s : State} {ch : Channel} {r : Receiver} {byte : Byte}

/-- The part behind a complete character, which may end its frame. -/
def State.characterEnded (s : State) (ch : Channel) (r : Receiver) (byte : Byte) : State :=
  (r.endsWith byte).elim (s.characterTaken ch r byte) fun cause => endFrame ch cause (s.characterTaken ch r byte)

theorem characterEnded_unopened (h : r.frame ≠ .opened) :
    s.characterEnded ch r byte = s.withRx ch (if r.endsWith byte = none then r else r.cleared .idle) := by
  have htaken : s.characterTaken ch r byte = s.withRx ch r := if_neg h
  rw [State.characterEnded, htaken]
  cases hend : r.endsWith byte with
  | none => rfl
  | some cause =>
    have hframe : ((s.withRx ch r).rx ch).frame ≠ .opened := by rwa [withRx_rx]
    simp [endFrame_unopened cause hframe, endsWith_leaves hend]

theorem characterEnded_closes {record : CaptureRecord} {cause : EndCause} (h : r.frame = .opened)
    (hend : r.endsWith byte = some cause) (hr : (s.characterTaken ch r byte).cu.opened.get ch = some record) :
    (s.characterTaken ch r byte).frameClosed (s.characterEnded ch r byte) ch record cause ∧
      (s.characterTaken ch r byte).sameButReception (s.characterEnded ch r byte) ch ∧
      (s.characterEnded ch r byte).rx ch = r.cleared .idle := by
  have hrx := characterTaken_rx s ch r byte
  have hclosed := endFrame_closes (s := s.characterTaken ch r byte) cause (by rwa [hrx]) hr
  rw [hrx, endsWith_leaves hend] at hclosed
  rwa [State.characterEnded, hend]

end

/-! ## The row -/

section
variable {s : State} {ch : Channel} {data : Byte} {parityBit stopBit : Bool}

theorem exec_rxCharacterComplete_keeps (h : s.soundsAsBreak ch data parityBit stopBit ∨
      samplesCanBe s ch ((s.chan ch).config.completeAt stopBit) ((s.chan ch).config.samples data parityBit stopBit) = false) :
    exec (.rxCharacterComplete ch data parityBit stopBit) s = .next s := by
  refine congrArg Host.Outcome.next (whenListening_keeps ch (if_pos (.inr (.inr ?_))))
  exact h.imp (allLow_iff s ch data parityBit stopBit).2 Bool.eq_false_iff.1

/-- The receiver with a character counted at its place on the line (R117, R122). -/
def State.characterCounted (s : State) (ch : Channel) (data : Byte) (parityBit stopBit : Bool) : Receiver :=
  ({ s.rx ch with place := placeAtCharacter s ch stopBit } : Receiver).counted
    ((s.chan ch).config.parityWrong data parityBit) stopBit

section
variable (h : s.hears ch) (hchar : (s.rx ch).state = .inChar) (hstart : (s.rx ch).startConfirmed = true)
  (hlow : ¬ s.soundsAsBreak ch data parityBit stopBit)
  (hcan : samplesCanBe s ch ((s.chan ch).config.completeAt stopBit) ((s.chan ch).config.samples data parityBit stopBit) = true)
include h hchar hstart hlow hcan

theorem exec_rxCharacterComplete_takes : exec (.rxCharacterComplete ch data parityBit stopBit) s =
    .next (takeCharacter ch ((s.chan ch).config.dataOf data) ((s.chan ch).config.parityWrong data parityBit) stopBit
      (s.withRx ch { s.rx ch with place := placeAtCharacter s ch stopBit })) := by
  refine congrArg Host.Outcome.next ((whenListening_hears h _).trans (if_neg ?_))
  rintro (hs | hc | ha | hn)
  · exact hs hchar
  · exact hc hstart
  · exact hlow ((allLow_iff s ch data parityBit stopBit).1 ha)
  · exact hn hcan

theorem exec_rxCharacterComplete_ends : exec (.rxCharacterComplete ch data parityBit stopBit) s =
    .next (s.characterEnded ch (s.characterCounted ch data parityBit stopBit) ((s.chan ch).config.dataOf data)) :=
  (exec_rxCharacterComplete_takes h hchar hstart hlow hcan).trans (congrArg _ (takeCharacter_eq _ _ _ _ _ _))

end

/-! ## No fall within a character is taken again (R111) -/

/-- A looped receiver that has nothing of a fall to hear does not take it. -/
theorem exec_rxFall_keeps {fall : Fall} (hl : s.ser.loop = true) (hn : loopHeard s ch fall.bit.val = none) :
    exec (.rxFall ch fall) s = .next s :=
  congrArg Host.Outcome.next (whenListening_keeps ch (by simp [hl, hn]))

/-- The completion of a character takes the place to the middle of its first stop bit, where the line carries that character. -/
theorem le_placeAtCharacter {h : LoopHeard} {since : Nat} (hl : s.ser.loop = true) (hh : (s.rx ch).looped = some h)
    (hafter : h.after = .carries since) (hbits : h.bits.length = (s.chan (otherChannel ch)).lineBits.length) :
    (s.chan ch).config.completeAt stopBit * (s.chan ch).config.divisor ≤ (placeAtCharacter s ch stopBit).heard := by
  have hmoment : ∀ moment, momentOnLine s ch h moment = some moment := fun moment => by
    simp [momentOnLine, hafter, hbits]
  rw [placeAtCharacter_heard]
  simp only [placeAtSample, hl, hh, if_true, placeAt, hmoment, Option.getD_some]
  exact Nat.le_max_right _ _

/-- A line that carries one character does not fall behind its first stop bit. -/
theorem loopHeard_past_stop {c : ChannelConfig} {b : Byte} {k : Nat}
    (hline : (s.chan (otherChannel ch)).lineBits = c.characterBits b)
    (hplace : c.completeAt true * (s.chan (otherChannel ch)).config.divisor ≤ (s.rx ch).place.heard)
    (hd : 1 ≤ (s.chan (otherChannel ch)).config.divisor) : loopHeard s ch k = none := by
  rw [Option.eq_none_iff_forall_ne_some]
  intro x hx
  obtain ⟨⟨-, hfall, hheard, -⟩, -⟩ := (loopHeard_eq_some s ch k x).1 hx
  obtain ⟨-, hzero, -⟩ := lineCarries_of_fall s ch k hfall
  obtain ⟨rest, hrest, hbits⟩ := characterBits_eq c b
  rw [hline, hbits] at hzero
  have hk : k < (c.beforeStop b).length := by
    by_contra hk
    rw [List.getElem?_append_right (Nat.not_lt.1 hk)] at hzero
    have hmem := List.mem_of_getElem? hzero
    simp at hmem
    exact Bool.false_ne_true (hrest _ hmem)
  rw [completeAt_true c b] at hplace
  have hreach : (2 * (c.beforeStop b).length + 1) * (s.chan (otherChannel ch)).config.divisor ≤
      2 * k * (s.chan (otherChannel ch)).config.divisor := by
    calc _ ≤ k * lineUnit s ch := hplace.trans hheard
      _ = _ := by rw [lineUnit]; ring
  have := Nat.le_of_mul_le_mul_right hreach hd
  omega

end

/-! ## The statement -/

/-- A character that channels configured alike have heard is heard once. -/
theorem character_heard_once {s t : State} {ch : Channel} {data b : Byte} {parityBit stopBit : Bool} {c : ChannelConfig}
    (fall : Fall) (hc : (s.chan ch).config = c) (h : s.hears ch) (hchar : (s.rx ch).state = .inChar)
    (hstart : (s.rx ch).startConfirmed = true)
    (hlow : ¬ s.soundsAsBreak ch data parityBit stopBit) (hl : s.ser.loop = true) (hd : 1 ≤ c.divisor)
    (hother : (s.chan (otherChannel ch)).config.divisor = c.divisor) (hline : s.lineCarries ch (c.characterBits b))
    (hh : (s.rx ch).looped = some { bits := c.characterBits b, divisor := c.divisor, after := .carries 0 })
    (hcan : samplesCanBe s ch (c.completeAt stopBit) (c.samples data parityBit stopBit) = true)
    (ht : exec (.rxCharacterComplete ch data parityBit stopBit) s = .next t) : exec (.rxFall ch fall) t = .next t := by
  have hbits := lineCarries_bits s ch _ hline
  subst hc
  obtain ⟨rfl, -⟩ := (samplesCanBe_alike (more := []) rfl hl hd (by rwa [List.append_nil])).1 hcan
  cases (exec_rxCharacterComplete_takes h hchar hstart hlow hcan).symm.trans ht
  set t := takeCharacter ch ((s.chan ch).config.dataOf data) ((s.chan ch).config.parityWrong data parityBit) true
    (s.withRx ch { s.rx ch with place := placeAtCharacter s ch true }) with htaken
  obtain ⟨x, hplace, hser⟩ := takeCharacter_ser s ch { s.rx ch with place := placeAtCharacter s ch true }
    ((s.chan ch).config.dataOf data) ((s.chan ch).config.parityWrong data parityBit) true
  rw [← htaken] at hser
  have hloop : t.ser.loop = true := by rw [hser]; exact hl
  have hrx : (t.rx ch).place = placeAtCharacter s ch true := by
    rw [State.rx, State.chan, hser]
    exact (congrArg Receiver.place (withRx_rx s ch x)).trans hplace
  have hchan : t.chan (otherChannel ch) = s.chan (otherChannel ch) := by
    rw [State.chan, hser]
    exact get_set_other _ _ _
  refine exec_rxFall_keeps hloop (loopHeard_past_stop (c := (s.chan ch).config) (b := b) ?_ ?_ ?_)
  · rw [hchan, hbits]
  · rw [hchan, hrx, hother]
    exact le_placeAtCharacter hl hh rfl (congrArg List.length hbits)
  · rwa [hchan, hother]

/-- Settles O39: a break and samples that the line does not give change nothing; what the line gives to channels configured alike
is the character sent, once; and the character that is heard is counted, its byte stored or discarded, and its frame ended or not. -/
theorem charactersFillAndEndFrames : Obligations.CharactersFillAndEndFrames := by
  rintro s ch data parityBit stopBit _ h rfl hchar hstart
  refine ⟨fun hlow => exec_rxCharacterComplete_keeps (.inl hlow), fun hlow =>
    ⟨fun _ hno => exec_rxCharacterComplete_keeps (.inr hno),
      fun _ _ hl hh hunit hu hno => exec_rxCharacterComplete_keeps (.inr (characterSamples_not_given hl hh hunit hu hno)),
      fun _ _ _ hl hd hh => samplesCanBe_alike rfl hl hd hh,
      fun _ _ fall hl hd hother hline hh hcan ht =>
        character_heard_once fall rfl h hchar hstart hlow hl hd hother hline hh hcan ht,
      fun hcan byte ones wrong cause heard hbyte hones hwrong hcause hheard => ?_⟩⟩
  have hexec := exec_rxCharacterComplete_ends h hchar hstart hlow (hcan.elim samplesCanBe_off id)
  obtain rfl : byte = (s.chan ch).config.dataOf data := by
    rw [hbyte, ChannelConfig.dataOf]
    cases (s.chan ch).config.dataBits <;> rfl
  obtain rfl : wrong = (s.chan ch).config.parityWrong data parityBit := hwrong.trans (parityWrong_eq _ _ _ hones).symm
  obtain rfl : heard = s.characterCounted ch data parityBit stopBit := hheard
  obtain rfl : cause = (s.characterCounted ch data parityBit stopBit).endsWith ((s.chan ch).config.dataOf data) := hcause
  refine ⟨fun hframe => hexec.trans (congrArg _ (characterEnded_unopened hframe)), fun r hframe hr =>
    ⟨s.characterTaken ch (s.characterCounted ch data parityBit stopBit) ((s.chan ch).config.dataOf data), _, ?_, ?_, ?_, hexec,
      fun hgoes => ?_, fun _ _ hends hr' => characterEnded_closes hframe hends hr'⟩⟩
  · exact fun hroom => (congrArg State.cu (if_pos hframe)).trans (storeFrameByte_room _ hr hroom)
  · exact fun hfull => (congrArg State.cu (if_pos hframe)).trans (storeFrameByte_full _ hr hfull)
  · rw [State.characterTaken]
    split <;> rfl
  · rw [State.characterEnded, hgoes]
    rfl

end Sys2Proof.Machine
end

section
/-! SUPPORT. GAP_EXPIRY and BREAK_DETECTED (R118, R121, R123, R125): where a gap can run out on the looped line, and what each does
to the frame in hand and, in IDLE, to the capture queue. -/

namespace Sys2Proof.Machine

/-! ## The end of a gap on the looped line (R111, R123) -/

section
variable {s : State} {ch : Channel}

/-- Nothing bounds the mark on a pin, on a line at rest, and on one that has rested since the last character. -/
theorem markHeard_unbounded (moment : Nat)
    (h : s.ser.loop = false ∨ (s.tx (otherChannel ch)).out = .mark ∨ (s.rx ch).place.mark = none) :
    markHeard s ch moment = none := by
  unfold markHeard
  obtain hl | ho | hm := h
  · simp [hl]
  · have ho' : (s.chan (otherChannel ch)).tx.out = .mark := ho
    simp [ho']
  · simp [hm]

theorem markHeard_bounded {m : Nat} (moment : Nat) (hl : s.ser.loop = true) (ho : (s.tx (otherChannel ch)).out ≠ .mark)
    (hm : (s.rx ch).place.mark = some m) :
    markHeard s ch moment =
      some (m + onesBetween (s.chan (otherChannel ch)).lineBits (lineUnit s ch) (s.rx ch).place.counted moment) := by
  have ho' : ¬ (s.chan (otherChannel ch)).tx.out = .mark := ho
  simp [markHeard, hl, ho', hm]

theorem sum_ones (bits : List Bool) (unit : Nat) :
    (bits.map fun b => if b then unit else 0).sum = bits.count true * unit := by
  induction bits with
  | nil => simp
  | cons b rest ih => cases b <;> simp [ih, Nat.succ_mul, Nat.add_comm]

/-- Bits stand at 1 no longer than their ones last. -/
theorem onesBetween_le (bits : List Bool) (unit start stop : Nat) :
    onesBetween bits unit start stop ≤ bits.count true * unit := by
  have hbit : ∀ j, (if bits.getD j false then min ((j + 1) * unit) stop - max (j * unit) start else 0) ≤
      if bits.getD j false then unit else 0 := fun j => by
    have : (j + 1) * unit = j * unit + unit := Nat.succ_mul j unit
    split <;> omega
  have hrange : (List.range bits.length).map (fun j => if bits.getD j false then unit else 0) =
      bits.map fun b => if b then unit else 0 :=
    List.ext_getElem (by simp) fun j _ hj => by
      rw [List.length_map] at hj
      simp [hj]
  calc onesBetween bits unit start stop
      ≤ ((List.range bits.length).map fun j => if bits.getD j false then unit else 0).sum := List.sum_le_sum fun j _ => hbit j
    _ = bits.count true * unit := by rw [hrange, sum_ones]

/-- What a line shows is what the model keeps of it, and is not the mark at which a transmitter rests. -/
theorem lineShows_bits {bits : List Bool} (h : s.lineShows ch bits) :
    s.ser.loop = true ∧ (s.tx (otherChannel ch)).out ≠ .mark ∧ bits = (s.chan (otherChannel ch)).lineBits := by
  obtain ⟨hl, hc | ⟨ho, rfl⟩⟩ := h
  · refine ⟨hl, fun ho => ?_, lineCarries_bits s ch bits hc⟩
    simp [State.lineCarries, ho] at hc
  · have ho' : (s.chan (otherChannel ch)).tx.out = .lead := ho
    exact ⟨hl, by simp [ho], by simp [SerialChannel.lineBits, ho']⟩

theorem placeAtGap_keeps (h : s.ser.loop = false ∨ (s.tx (otherChannel ch)).out = .mark ∨
      (s.rx ch).place.mark = none ∧ s.mayBeAtMark ch) :
    placeAtGap s ch = some (s.rx ch).place := by
  refine placeAtGap_unbounded s ch (markHeard_unbounded 0 (h.imp_right (Or.imp_right And.left))) ((canBeAtMark_said s ch).2 ?_)
  obtain hl | ho | ⟨-, hm⟩ := h
  · exact .inl (.inl hl)
  · exact .inl (.inr (by simp [ho]))
  · exact hm

/-- No gap runs out on a line that has not stood at 1 for its length since the last character. -/
theorem placeAtGap_too_short {line : List Bool} {m : Nat} (h : s.lineShows ch line) (hm : (s.rx ch).place.mark = some m)
    (hshort : m + line.count true * (2 * (s.chan (otherChannel ch)).config.divisor) <
      2 * (s.chan ch).config.divisor * ((s.rx ch).rules.gap * (s.chan ch).config.charBits)) :
    placeAtGap s ch = none := by
  obtain ⟨hl, ho, rfl⟩ := lineShows_bits h
  have hheard := fun moment => markHeard_bounded (ch := ch) moment hl ho hm
  have hnot : ∀ moment, ¬ gapLength s ch ≤
      m + onesBetween (s.chan (otherChannel ch)).lineBits (lineUnit s ch) (s.rx ch).place.counted moment := fun moment => by
    have hle := onesBetween_le (s.chan (otherChannel ch)).lineBits (lineUnit s ch) (s.rx ch).place.counted moment
    exact Nat.not_le.2 ((Nat.add_le_add_left hle m).trans_lt hshort)
  simp [placeAtGap, hheard, hnot]

end

/-! ## GAP_EXPIRY (R123) -/

section
variable {s : State} {ch : Channel}

theorem exec_gapExpiry_ends {place : LinePlace} (h : s.hears ch) (hstate : (s.rx ch).state = .inFrame)
    (hlow : (s.rx ch).lowWatch = none) (hin : (s.rx ch).input ≠ some false) (hgap : placeAtGap s ch = some place) :
    exec (.gapExpiry ch) s = .next (endFrame ch .gap (s.withRx ch { s.rx ch with place := place })) := by
  refine congrArg Host.Outcome.next ((whenListening_hears h _).trans ?_)
  simp [Receiver.waits, Receiver.canGoTo, hstate, hlow, hin, hgap]

theorem exec_gapExpiry_keeps (h : (s.rx ch).input = some false ∨ placeAtGap s ch = none) :
    exec (.gapExpiry ch) s = .next s := by
  refine congrArg Host.Outcome.next (whenListening_keeps ch ?_)
  obtain hin | hgap := h
  · simp [Receiver.canGoTo, hin]
  · simp [hgap]

theorem placeAtGap_held_low (h : ¬ s.mayBeAtMark ch) : placeAtGap s ch = none := by
  simp [placeAtGap, (canBeAtMark_said s ch), h]

end

/-! ## BREAK_DETECTED (R118) -/

section
variable {s : State} {ch : Channel}

theorem exec_breakDetected_ends {low : LowWatch} (h : s.hears ch) (hlow : (s.rx ch).lowWatch = some low)
    (hlast : s.mayLastLow ch low)
    (hstate : (s.rx ch).state = .inFrame ∨
      (s.rx ch).state = .inChar ∧ (s.rx ch).startConfirmed = true ∧ low.byStartBit = true) :
    exec (.breakDetected ch) s = .next (endFrame ch .brk s) := by
  refine congrArg Host.Outcome.next ((whenListening_hears h _).trans ?_)
  simp only [hlow, if_pos ((breakCanBe_iff s ch low).2 hlast)]
  obtain hs | ⟨hs, hc, hb⟩ := hstate
  · simp only [hs]
  · simp [hs, hc, hb]

theorem exec_breakDetected_keeps (h : (s.rx ch).lowWatch = none ∨ ∃ low, (s.rx ch).lowWatch = some low ∧
      (¬ s.mayLastLow ch low ∨ (s.rx ch).state = .inChar ∧ low.byStartBit = false)) :
    exec (.breakDetected ch) s = .next s := by
  refine congrArg Host.Outcome.next (whenListening_keeps ch ?_)
  obtain hnone | ⟨low, hlow, hnot | ⟨hs, hb⟩⟩ := h
  · simp only [hnone]
  · simp only [hlow, if_neg (mt (breakCanBe_iff s ch low).1 hnot)]
  · simp [hlow, hs, hb]

theorem exec_breakDetected_idle {low : LowWatch} (h : s.hears ch) (hlow : (s.rx ch).lowWatch = some low)
    (hlast : s.mayLastLow ch low) (hs : (s.rx ch).state = .idle) :
    exec (.breakDetected ch) s = .next (
      (if s.cu.slotFree then closeRecord (breakRecord ch low.stamp (s.cu.rings.get ch).freeEnd) s else dropFrame ch s).withRx ch
        { s.rx ch with state := .brk }) := by
  refine congrArg Host.Outcome.next ((whenListening_hears h _).trans ?_)
  set recorded :=
    if s.cu.slotFree then closeRecord (breakRecord ch low.stamp (s.cu.rings.get ch).freeEnd) s else dropFrame ch s
    with hrecorded
  have hrx : recorded.rx ch = s.rx ch := by
    rw [hrecorded]
    split
    · simp only [State.rx, State.chan, closeRecord_ser]
    · rfl
  refine Eq.trans ?_ (congrArg (fun r : Receiver => recorded.withRx ch { r with state := .brk }) hrx)
  simp only [hlow, if_pos ((breakCanBe_iff s ch low).2 hlast), hs, ← hrecorded]

/-- A FRAME record with a flag set matches no rule, so its close puts it into the queue and does nothing else (R154). -/
theorem closeRecord_damaged {r : CaptureRecord} (hsource : r.source = .frame ch) (hflags : r.flags ≠ RecordFlags.clear) :
    closeRecord r s = { s with cu := { s.cu with queue := s.cu.queue ++ [{ r with matched := [] }] } } := by
  have hmatched : allRules.filter (ruleMatches s r) = [] := by
    simp [ruleMatches, prefixMatches, hsource, hflags]
  simp [closeRecord, hmatched]

end

/-! ## The statement -/

/-- No character at the receiver's own settings is a break: its first stop bit is at 1 before its character time is over. -/
theorem not_mayLastLow_of_character {s : State} {ch : Channel} {low : LowWatch} {b : Byte} {more : List Bool} {after : LineAfter}
    (hl : s.ser.loop = true) (hd : 1 ≤ (s.chan ch).config.divisor)
    (hh : low.looped = some { bits := (s.chan ch).config.characterBits b ++ more, divisor := (s.chan ch).config.divisor,
                              after := after }) :
    ¬ s.mayLastLow ch low := by
  rintro (hoff | hlow)
  · exact Bool.false_ne_true (hoff.symm.trans hl)
  · have hstop := (hlow _ hh).2 _ (characterBits_stop (s.chan ch).config b more)
    have hbefore := beforeStop_length_lt (s.chan ch).config b
    exact Nat.not_le.2 hbefore (Nat.le_of_mul_le_mul_right hstop hd)

/-- A frame in hand ends alike for either row, once the receiver has come to the place at which it does. -/
theorem frameEnds {s : State} {ch : Channel} {c : Instr} {cause : EndCause} {place : LinePlace}
    (hc : exec c s = .next (endFrame ch cause (s.withRx ch { s.rx ch with place := place }))) :
    ((s.rx ch).frame ≠ .opened → exec c s = .next (s.withRx ch { (s.rx ch).cleared cause.leaves with place := place })) ∧
    (∀ r, (s.rx ch).frame = .opened → s.cu.opened.get ch = some r → ∃ t, exec c s = .next t ∧
      s.frameClosed t ch r cause ∧ s.sameButReception t ch ∧
        t.rx ch = { (s.rx ch).cleared cause.leaves with place := place }) := by
  refine ⟨fun hframe => ?_, fun r hframe hr => ⟨_, hc, ?_⟩⟩
  · rw [hc, endFrame_unopened cause (by rwa [withRx_rx]), withRx_withRx, withRx_rx]
    rfl
  · obtain ⟨hclosed, hsame, hrx⟩ := endFrame_closes (s := s.withRx ch { s.rx ch with place := place }) cause
      (by rwa [withRx_rx]) hr
    rw [withRx_rx] at hrx
    exact ⟨frameClosed_of_withRx hclosed rfl, sameButReception_of_withRx hsame, hrx⟩

/-- Settles O40: both rows end the frame in hand alike; a gap is held back by the input and by the line's mark, a break by the low
in hand, and in IDLE the break's own record matches no rule. -/
theorem gapsAndBreaksEndFrames : Obligations.GapsAndBreaksEndFrames := by
  intro s ch h
  refine ⟨?_, placeAtGap_keeps, fun _ _ hline hm hshort => exec_gapExpiry_keeps (.inr (placeAtGap_too_short hline hm hshort)),
    exec_breakDetected_keeps, ?_, fun _ _ _ low hl hd hlow hh =>
      exec_breakDetected_keeps (.inr ⟨low, hlow, .inl (not_mayLastLow_of_character hl hd hh)⟩),
    fun low hs hlow hlast => ?_⟩
  · rintro c cause next place (⟨rfl, rfl, rfl, hs, hlow, hin, hgap⟩ | ⟨rfl, rfl, rfl, rfl, low, hlow, hlast, hstate⟩)
    · exact frameEnds (exec_gapExpiry_ends h hs hlow hin hgap)
    · exact frameEnds ((exec_breakDetected_ends h hlow hlast hstate).trans (by rw [withRx_self]))
  · rintro (hin | hm | hgap)
    · exact exec_gapExpiry_keeps (.inl hin)
    · exact exec_gapExpiry_keeps (.inr (placeAtGap_held_low hm))
    · exact exec_gapExpiry_keeps (.inr hgap)
  · have hbreak := exec_breakDetected_idle h hlow hlast hs
    refine ⟨fun hfree => ?_, fun hfull => ?_⟩
    · rw [hbreak, if_pos ((slotFree_iff _).2 hfree), closeRecord_damaged rfl (by simp [breakRecord, RecordFlags.clear])]
      rfl
    · rw [hbreak, if_neg (mt (slotFree_iff _).1 (Nat.not_lt.2 hfull))]
      rfl

end Sys2Proof.Machine
end

section
/-! SUPPORT. CH_RX_RESET and EV_CONFIG (R127, R131, R142). -/

namespace Sys2Proof.Machine

theorem channelOfArg_channelCode (ch : Channel) : channelOfArg (channelCode ch) = some ch := by cases ch <;> rfl

theorem channelOfArg_from_2 {arg : Byte} (h : 2 ≤ arg.toNat) : channelOfArg arg = none := by
  have h0 : arg ≠ 0 := by rintro rfl; simp at h
  have h1 : arg ≠ 1 := by rintro rfl; simp at h
  rw [channelOfArg, if_neg h0, if_neg h1]

section
variable {s : State} (h : s.portReady)
include h

/-- CH_RX_RESET names a channel, and a number of 2 to 255 names none (R95, R127). -/
theorem exec_chRxReset_badArg (ha : 2 ≤ s.biu.arg.toNat) : exec .chRxReset s = .next (s.answered .badArg) := by
  refine congrArg Host.Outcome.next (atOnce_answered h ?_)
  rw [channelCommand, channelOfArg_from_2 ha]

theorem exec_chRxReset_resets {ch : Channel} (ha : s.biu.arg = channelCode ch) :
    exec .chRxReset s =
      .next (({ s.withRx ch (((s.rx ch).cleared .idle).afresh (inputKnown s ch)) with
        cu := abandonRecord ch s.cu }).answered .ok) := by
  refine congrArg Host.Outcome.next (atOnce_answered h ?_)
  have hch : channelOfArg s.biu.arg = some ch := by rw [ha, channelOfArg_channelCode]
  rw [channelCommand, hch]
  rfl

theorem exec_evConfig :
    exec .evConfig s = .next (({ s with evi := { s.evi with
      rising := stagedRising s.ser.staging, falling := stagedFalling s.ser.staging } }).answered .ok) :=
  congrArg Host.Outcome.next (atOnce_answered h rfl)

end

theorem stagedRising_toNat (st : Vector Byte 15) : (stagedRising st).toNat = (stagedByte st 14).toNat % 16 := by
  simp [stagedRising, BitVec.extractLsb'_toNat]

theorem stagedFalling_toNat (st : Vector Byte 15) : (stagedFalling st).toNat = (stagedByte st 14).toNat / 16 := by
  have hbyte : (stagedByte st 14).toNat < 256 := (stagedByte st 14).isLt
  simp only [stagedFalling, BitVec.extractLsb'_toNat, Nat.shiftRight_eq_div_pow]
  omega

/-- Settles O41: CH_RX_RESET by whether ARG names a channel, EV_CONFIG by the two halves of its staged byte. -/
theorem receiverResetAbandonsItsFrame : Obligations.ReceiverResetAbandonsItsFrame := by
  intro s h
  refine ⟨exec_chRxReset_badArg h, ?_, _, _, exec_evConfig h, stagedRising_toNat _, stagedFalling_toNat _⟩
  rintro ch ha _ rfl
  exact exec_chRxReset_resets h ha

end Sys2Proof.Machine
end

section
/-! SUPPORT. The Notice and Interrupt Unit's commands and locations (R168, R170, R172, R174, R175, R177), and the NOTICE page
(R164, R169, R196), whose table lists the stamp before the subject and leaves out what a kind does not have. -/

namespace Sys2Proof.Machine

/-! ## The NOTICE page -/

/-- The locations that the table of the page leaves out, which read 0: all of them with no notice in the copy. -/
def noticeBlank : Option Notice → List (Nat × Nat × Nat)
  | none => [(0x10, 16, 0)]
  | some n =>
    match n.body with
    | .fired .. => [(0x12, 4, 0)]
    | .missed .. | .spent .. => [(0x12, 4, 0), (0x1F, 1, 0)]
    | .txDone .. | .txAborted .. => [(0x11, 1, 0), (0x15, 1, 0), (0x1F, 1, 0)]
    | .triggerMiss .. => [(0x12, 3, 0), (0x1F, 1, 0)]

/-- The fields of the notice copy in the order of their locations, those of the value 0 included. -/
def noticeFieldsInOrder (copy : Option Notice) : List (Nat × Nat × Nat) :=
  (noticeFields copy ++ noticeBlank copy).insertionSort fun f g => f.1 ≤ g.1

theorem noticeBlank_value (copy : Option Notice) : ∀ f ∈ noticeBlank copy, f.2.2 = 0 := by
  rcases copy with _ | ⟨body, stamp⟩
  · simp [noticeBlank]
  · cases body <;> simp [noticeBlank]

theorem noticeFieldsInOrder_adjacent (copy : Option Notice) : Adjacent 16 (noticeFieldsInOrder copy) := by
  rcases copy with _ | ⟨body, stamp⟩
  · simp [noticeFieldsInOrder, noticeFields, noticeBlank, Adjacent]
  · cases body <;> simp [noticeFieldsInOrder, noticeFields, noticeBlank, Adjacent]

/-- The NOTICE page is the bytes of its fields: kind and subject, the stamp, the value, the flags. -/
theorem noticePage_eq_fields (copy : Option Notice) :
    noticePage copy = (noticeFieldsInOrder copy).flatMap fun f => leBytes f.2.1 f.2.2 := by
  rcases copy with _ | ⟨body, stamp⟩
  · rfl
  · cases body <;>
      simp [noticePage, noticeFieldsInOrder, noticeFields, noticeBlank, NoticeBody.subject, NoticeBody.value,
        NoticeBody.flags, occurrenceFlags_eq, leBytes]

theorem noticePage_shows {s : State} (h : s.biu.page = 6) : s.pageShows (noticeFields s.niu.copy) := by
  refine pageShows_of_perm (noticeBlank_value _) (List.perm_insertionSort _ _) (noticeFieldsInOrder_adjacent _) ?_
  rw [← noticeFieldsInOrder, ← noticePage_eq_fields]
  simp [State.pageBytes, h]

/-! ## NOTICE_POP and NOTICE_FLUSH (R168, R172) -/

theorem exec_noticePop_empty {s : State} (h : s.portReady) (hq : s.niu.queue = []) :
    exec .noticePop s = .next (s.answered .empty) :=
  congrArg Host.Outcome.next (atOnce_answered h (by simp only [hq]))

theorem exec_noticePop_head {s : State} (h : s.portReady) {n : Notice} {rest : List Notice} (hq : s.niu.queue = n :: rest) :
    exec .noticePop s = .next (({ s with niu := { s.niu with queue := rest, copy := some n } }).answered .ok) :=
  congrArg Host.Outcome.next (atOnce_answered h (by simp only [hq]))

theorem exec_noticeFlush {s : State} (h : s.portReady) :
    exec .noticeFlush s = .next (({ s with niu := { s.niu with queue := [], lost := 0 } }).answered .ok) :=
  congrArg Host.Outcome.next (atOnce_answered h rfl)

/-! ## The four locations -/

section
variable {s : State} (h : s.busReady) (byte : Byte)
include h

theorem exec_faultWrite : exec (.faultWrite byte) s = .next (writeFault byte s) :=
  congrArg Host.Outcome.next (onBus_ready s _ h)

theorem exec_faultEnableWrite : exec (.faultEnableWrite byte) s = .next (writeFaultEnable byte s) :=
  congrArg Host.Outcome.next (onBus_ready s _ h)

theorem exec_causeEnableWrite : exec (.causeEnableWrite byte) s = .next (writeCauseEnable byte s) :=
  congrArg Host.Outcome.next (onBus_ready s _ h)

theorem exec_noticeThresholdWrite : exec (.noticeThresholdWrite byte) s = .next (writeThreshold byte s) :=
  congrArg Host.Outcome.next (onBus_ready s _ h)

end

section
variable (s : State) (byte : Byte)

/-- A flag stays set where its bit of the byte is 0 (R174). -/
theorem writeFault_getLsbD (n : Fin 6) :
    (writeFault byte s).niu.faults.getLsbD n = (s.niu.faults.getLsbD n && !byte.getLsbD n) := by
  simp [writeFault]

theorem writeFaultEnable_getLsbD (n : Fin 6) : (writeFaultEnable byte s).niu.faultEnable.getLsbD n = byte.getLsbD n := by
  simp [writeFaultEnable]

theorem writeCauseEnable_getLsbD (n : Fin 4) : (writeCauseEnable byte s).niu.causeEnable.getLsbD n = byte.getLsbD n := by
  simp [writeCauseEnable]

/-- 0 and 33 to 255 are taken as 1 (R170). -/
theorem writeThreshold_eq : writeThreshold byte s = { s with niu := { s.niu with
    threshold := if byte.toNat = 0 ∨ 33 ≤ byte.toNat then 1 else byte.toNat } } := by
  have hthreshold : (if 1 ≤ byte.toNat ∧ byte.toNat ≤ 32 then byte.toNat else 1) =
      if byte.toNat = 0 ∨ 33 ≤ byte.toNat then 1 else byte.toNat := by
    split <;> split <;> omega
  rw [writeThreshold, hthreshold]

end

/-- Settles O48: the page by its fields in order, NOTICE_POP by whether the queue is empty, the write to each location by the bits
it leaves. -/
theorem noticeCommandsAndLocations : Obligations.NoticeCommandsAndLocations := by
  refine ⟨fun _ => noticePage_shows, rfl, fun s =>
    ⟨fun hport => ⟨exec_noticePop_empty hport, fun _ _ => exec_noticePop_head hport, exec_noticeFlush hport⟩,
      fun hbus byte => ⟨?_, ?_, ?_, ?_⟩⟩⟩
  · exact ⟨_, exec_faultWrite hbus byte, writeFault_getLsbD s byte⟩
  · exact ⟨_, exec_faultEnableWrite hbus byte, writeFaultEnable_getLsbD s byte⟩
  · exact ⟨_, exec_causeEnableWrite hbus byte, writeCauseEnable_getLsbD s byte⟩
  · rw [exec_noticeThresholdWrite hbus byte, writeThreshold_eq]

end Sys2Proof.Machine
end

section
/-! SUPPORT. RESET_N and SOFT_RESET (R183, R189, R192): what each event leaves, and that the pin held low and released and the
command make the same state of a part whose bus takes cycles. -/

namespace Sys2Proof.Machine

/-! ## The state after a reset of the main domain -/

/-- The reset that RESET_N and SOFT_RESET share leaves the supplies and RESET_N alone. -/
theorem resetKeepingStore_eq_mainReset (s : State) : resetKeepingStore s = s.mainReset s.power := rfl

/-- Nothing of the command port's registers outlives a reset, so that the CMD_DONE that an acceptance clears is of no account. -/
theorem resetKeepingStore_biu (s : State) (biu : Biu) : resetKeepingStore { s with biu := biu } = resetKeepingStore s := rfl

/-- Every descriptor keeps its definition and its range, and no request names it any more (R93, R192). -/
theorem mainReset_directory (s : State) (power : Power) (m : Fin 32) :
    (s.mainReset power).mm.directory[m] = { s.mm.directory[m] with busy := 0 } := by
  simp [State.mainReset]

/-! ## RESET_N -/

theorem exec_resetNAssert (s : State) :
    exec .resetNAssert s = .next (s.mainReset { s.power with resetHigh := false, skipCycles := 0 }) := rfl

theorem exec_resetNRelease_low {s : State} (h : s.power.resetHigh = false) (n : Nat) :
    exec (.resetNRelease n) s = .next { s with power := { s.power with resetHigh := true, skipCycles := n } } :=
  if_neg (by simp [h])

/-- A bus that takes cycles is as a release of RESET_N with no cycle to ignore leaves it (R183). -/
theorem busReady_power {s : State} (h : s.busReady) : { s.power with resetHigh := true, skipCycles := 0 } = s.power := by
  obtain ⟨-, hhigh, hskip⟩ := h
  rw [← hhigh, ← hskip]

/-- RESET_N released with no strobe low, after it was held low, brings back the supplies and the pin as they were. -/
theorem exec_resetNRelease_mainReset {s : State} (h : s.busReady) :
    exec (.resetNRelease 0) (s.mainReset { s.power with resetHigh := false, skipCycles := 0 }) =
      .next (s.mainReset s.power) :=
  (exec_resetNRelease_low rfl 0).trans (congrArg (fun power => Host.Outcome.next (s.mainReset power)) (busReady_power h))

/-! ## SOFT_RESET -/

theorem exec_softReset_idle {s : State} (h : s.portReady) : exec .softReset s = .next (s.mainReset s.power) := by
  have haccepted : offer s resetKeepingStore = s.mainReset s.power := by
    rw [offer_idle s _ h.1 h.2, resetKeepingStore_biu, resetKeepingStore_eq_mainReset]
  exact congrArg Host.Outcome.next haccepted

theorem exec_softReset_busy {s : State} (h : s.busReady) (hb : s.au.inFlight.isSome = true) :
    exec .softReset s = .next (setFault .cmdOverrun s) :=
  congrArg Host.Outcome.next (offer_busy s _ h hb)

/-- Settles O6: in IDLE the pin's two events and the command leave the same reset state, whose blocks are then read off; in BUSY
the port refuses. -/
theorem softResetActsAsResetPin : Obligations.SoftResetActsAsResetPin := by
  refine fun s => ⟨fun hport => ?_, exec_softReset_busy⟩
  exact ⟨_, s.mainReset s.power, exec_resetNAssert s, exec_resetNRelease_mainReset hport.1, exec_softReset_idle hport, rfl,
    rfl, rfl, rfl, rfl, rfl, rfl, mainReset_directory s s.power⟩

end Sys2Proof.Machine
end

section
/-! SUPPORT. The calendar (R10, R11): years and months are both runs of days laid one behind the other, in which a day is found
by going along them. -/

namespace Sys2Proof.Machine

/-! ## Runs of days -/

/-- Where a day lies among runs of days, the run numbered `i` lasting `len i` days: the run, and the days left over in it, looking
at up to `fuel` runs. -/
def findRun (len : Nat → Nat) : Nat → Nat → Nat → Nat × Nat
  | 0, i, days => (i, days)
  | fuel + 1, i, days => if days < len i then (i, days) else findRun len fuel (i + 1) (days - len i)

section
variable (len : Nat → Nat)

theorem findRun_found {fuel k r : Nat} (hk : k ≤ fuel) (i : Nat) (hr : r < len (i + k)) :
    findRun len fuel i ((∑ j ∈ Finset.range k, len (i + j)) + r) = (i + k, r) := by
  induction k generalizing fuel i with
  | zero => cases fuel <;> simp_all [findRun]
  | succ k ih =>
    obtain ⟨fuel, rfl⟩ := Nat.exists_eq_add_of_lt hk
    have hnext : i + (k + 1) = i + 1 + k := by omega
    have hsum : ∑ j ∈ Finset.range (k + 1), len (i + j) = len i + ∑ j ∈ Finset.range k, len (i + 1 + j) := by
      rw [Finset.sum_range_succ', Nat.add_comm]
      simp [Nat.add_comm, Nat.add_left_comm]
    rw [hsum, findRun, if_neg (by omega), hnext, ← ih (fuel := k + fuel) (by omega) (i + 1) (hnext ▸ hr)]
    congr 1
    omega

theorem exists_run_of_lt {n days : Nat} (i : Nat) (h : days < ∑ j ∈ Finset.range n, len (i + j)) :
    ∃ k < n, ∃ r < len (i + k), days = (∑ j ∈ Finset.range k, len (i + j)) + r := by
  induction n with
  | zero => simp at h
  | succ n ih =>
    by_cases hlt : days < ∑ j ∈ Finset.range n, len (i + j)
    · obtain ⟨k, hk, hr⟩ := ih hlt
      exact ⟨k, by omega, hr⟩
    · rw [Finset.sum_range_succ] at h
      exact ⟨n, by omega, days - ∑ j ∈ Finset.range n, len (i + j), by omega, by omega⟩

end

/-! ## Years and months as such runs -/

theorem findYear_eq (fuel year days : Nat) : findYear fuel year days = findRun yearLength fuel year days := by
  induction fuel generalizing year days with
  | zero => rfl
  | succ fuel ih => simp only [findYear, findRun, ih]

theorem findMonth_eq (year fuel month days : Nat) :
    findMonth year fuel month days = findRun (monthLength year) fuel month days := by
  induction fuel generalizing month days with
  | zero => rfl
  | succ fuel ih => simp only [findMonth, findRun, ih]

theorem yearsBefore_eq (year n : Nat) : yearsBefore year n = ∑ j ∈ Finset.range n, yearLength (year + j) := by
  induction n with
  | zero => rfl
  | succ n ih => rw [yearsBefore, ih, Finset.sum_range_succ]

theorem monthsBefore_eq (year n : Nat) : monthsBefore year n = ∑ j ∈ Finset.range n, monthLength year (1 + j) := by
  induction n with
  | zero => rfl
  | succ n ih => rw [monthsBefore, ih, Finset.sum_range_succ, Nat.add_comm n 1]

/-- The months of a year make up the year (R10). -/
theorem monthsBefore_twelve (year : Nat) : monthsBefore year 12 = yearLength year := by
  cases h : isLeap year <;> simp [monthsBefore, monthLength, yearLength, h]

/-- The calendar range is 36525 days. -/
theorem yearsBefore_hundred : yearsBefore 2000 100 = 36525 := by decide

/-- The days of the months before a month of a year, and within it, are fewer than those of the year. -/
theorem monthsBefore_add_lt {year k r : Nat} (hk : k < 12) (hr : r < monthLength year (1 + k)) :
    monthsBefore year k + r < yearLength year := by
  have hle : monthsBefore year (k + 1) ≤ monthsBefore year 12 := by
    simp only [monthsBefore_eq]
    exact Finset.sum_le_sum_of_subset (Finset.range_subset_range.2 (by omega))
  rw [monthsBefore_twelve, monthsBefore, Nat.add_comm k 1] at hle
  omega

theorem yearsBefore_add_lt {k r : Nat} (hk : k < 100) (hr : r < yearLength (2000 + k)) :
    yearsBefore 2000 k + r < 36525 := by
  have hle : yearsBefore 2000 (k + 1) ≤ yearsBefore 2000 100 := by
    simp only [yearsBefore_eq]
    exact Finset.sum_le_sum_of_subset (Finset.range_subset_range.2 (by omega))
  rw [yearsBefore_hundred, yearsBefore] at hle
  omega

/-! ## Dates -/

theorem valid_iff (c : Calendar) :
    c.valid = true ↔ 2000 ≤ c.year ∧ c.year ≤ 2099 ∧ 1 ≤ c.month ∧ c.month ≤ 12 ∧ 1 ≤ c.day ∧
      c.day ≤ monthLength c.year c.month ∧ c.hour ≤ 23 ∧ c.minute ≤ 59 ∧ c.second ≤ 59 ∧ c.fraction ≤ 4095 := by
  simp [Calendar.valid, and_assoc]

/-- The date of day `r` of month `m` of year `y`, each counted from 0, at a time of that day. -/
def dateAt (y m r hour minute second fraction : Nat) : Calendar :=
  { year := 2000 + y, month := 1 + m, day := r + 1, hour := hour, minute := minute, second := second, fraction := fraction }

section
variable {y m r hour minute second fraction : Nat}

/-- The tick time of a date (R10). -/
theorem dateAt_toTicks :
    (dateAt y m r hour minute second fraction).toTicks =
      ((yearsBefore 2000 y + monthsBefore (2000 + y) m + r) * 86400 + hour * 3600 + minute * 60 + second) * 4096 + fraction := by
  simp [Calendar.toTicks, dayNumber, dateAt]

theorem dateAt_valid_iff :
    (dateAt y m r hour minute second fraction).valid = true ↔ y < 100 ∧ m < 12 ∧ r < monthLength (2000 + y) (1 + m) ∧
      hour < 24 ∧ minute < 60 ∧ second < 60 ∧ fraction < 4096 := by
  simp only [valid_iff, dateAt]
  omega

/-- A date, found again from its day number and the time of its day (R11). -/
theorem calendarOf_dateAt (h : (dateAt y m r hour minute second fraction).valid = true) :
    calendarOf (dateAt y m r hour minute second fraction).toTicks = dateAt y m r hour minute second fraction := by
  obtain ⟨hy, hm, hr, hhour, hminute, hsecond, hfraction⟩ := dateAt_valid_iff.1 h
  generalize hn : (dateAt y m r hour minute second fraction).toTicks = n
  rw [dateAt_toTicks] at hn
  have hdays : n / 4096 / 86400 = yearsBefore 2000 y + (monthsBefore (2000 + y) m + r) := by omega
  have hyear : findYear 99 2000 (n / 4096 / 86400) = (2000 + y, monthsBefore (2000 + y) m + r) := by
    rw [hdays, findYear_eq, yearsBefore_eq]
    exact findRun_found yearLength (by omega) 2000 (monthsBefore_add_lt hm hr)
  have hmonth : findMonth (2000 + y) 11 1 (monthsBefore (2000 + y) m + r) = (1 + m, r) := by
    rw [findMonth_eq, monthsBefore_eq]
    exact findRun_found (monthLength (2000 + y)) (by omega) 1 hr
  simp only [calendarOf, hyear, hmonth, dateAt, Calendar.mk.injEq, true_and]
  omega

end

theorem eq_dateAt_of_valid {c : Calendar} (h : c.valid = true) :
    c = dateAt (c.year - 2000) (c.month - 1) (c.day - 1) c.hour c.minute c.second c.fraction := by
  obtain ⟨year, month, day, hour, minute, second, fraction⟩ := c
  rw [valid_iff] at h
  dsimp only at h
  simp only [dateAt, Calendar.mk.injEq, and_true]
  omega

/-- A valid date gives a tick time in 0..END (R9, R10). -/
theorem toTicks_le_endTime {c : Calendar} (h : c.valid = true) : c.toTicks ≤ Config.endTime := by
  have hc := eq_dateAt_of_valid h
  rw [hc] at h ⊢
  obtain ⟨hy, hm, hr, hhour, hminute, hsecond, hfraction⟩ := dateAt_valid_iff.1 h
  have hday := yearsBefore_add_lt hy (monthsBefore_add_lt hm hr)
  rw [dateAt_toTicks, Config.endTime]
  omega

/-- Every tick time in 0..END is that of a valid date (R11). -/
theorem exists_date_of_le_endTime {n : Nat} (h : n ≤ Config.endTime) : ∃ c : Calendar, c.valid = true ∧ c.toTicks = n := by
  rw [Config.endTime] at h
  have hrange : n / 4096 / 86400 < ∑ j ∈ Finset.range 100, yearLength (2000 + j) := by
    rw [← yearsBefore_eq, yearsBefore_hundred]
    omega
  obtain ⟨y, hy, d, hd, hdays⟩ := exists_run_of_lt yearLength 2000 hrange
  rw [← monthsBefore_twelve, monthsBefore_eq] at hd
  obtain ⟨m, hm, r, hr, rfl⟩ := exists_run_of_lt (monthLength (2000 + y)) 1 hd
  rw [← yearsBefore_eq, ← monthsBefore_eq] at hdays
  refine ⟨dateAt y m r (n / 4096 % 86400 / 3600) (n / 4096 % 3600 / 60) (n / 4096 % 60) (n % 4096),
    dateAt_valid_iff.2 ⟨hy, hm, hr, ?_⟩, ?_⟩
  · omega
  · rw [dateAt_toTicks]
    omega

/-- Settles O12: the tick times in 0..END are those of the valid dates, and a valid date is found again from its tick time. -/
theorem calendarConversionsAgree : Obligations.CalendarConversionsAgree := by
  have hback : ∀ c : Calendar, c.valid = true → calendarOf c.toTicks = c := fun c h => by
    have hc := eq_dateAt_of_valid h
    rw [hc] at h ⊢
    exact calendarOf_dateAt h
  refine ⟨fun n hn => ?_, fun c h => ⟨toTicks_le_endTime h, hback c h⟩⟩
  obtain ⟨c, hvalid, rfl⟩ := exists_date_of_le_endTime hn
  rw [hback c hvalid]
  exact ⟨hvalid, rfl⟩

end Sys2Proof.Machine
end

section
/-! SUPPORT. The rows of the table that the host offers by a write to COMMAND (R187, R191, R196). -/

namespace Sys2Proof.Machine

/-- The commands of the code table (R196). -/
def hostRows : List Instr :=
  [.timeSnapshot, .timeLoadCal, .timeLoadCount, .timeStep, .timeRun, .timeStop, .entryLoad, .entryRead, .entryRelease,
   .entryArmAt, .entryArmIn, .entryDisarm, .agendaClear, .lineWrite, .lineRead, .msgDefine, .msgUndefine, .msgRead,
   .chConfig, .chFrameConfig, .chSend, .chBreak, .chAbort, .chTxReset, .chRxReset, .chRead, .loopSet, .evConfig, .capPop,
   .capFlush, .trigWrite, .trigRead, .trigDisable, .noticePop, .noticeFlush, .softReset]

theorem commandOfCode_cases (code : Byte) :
    commandOfCode code ∈ hostRows ∨ commandOfCode code = .unknownCommandCode code := by
  unfold commandOfCode
  split <;> simp [hostRows]

theorem offerCode_of_mem_hostRows {code : Byte} (h : commandOfCode code ∈ hostRows) (s : State) :
    offerCode code s = exec (commandOfCode code) s := by
  unfold offerCode
  revert h
  cases commandOfCode code <;> simp [hostRows] <;> rfl

theorem offerCode_of_unknown {code : Byte} (h : commandOfCode code = .unknownCommandCode code) (s : State) :
    offerCode code s = badCommand s := by
  rw [offerCode, h]

/-- The row of the command that a code names does what a write of the code to COMMAND does. -/
theorem exec_commandOfCode (code : Byte) (s : State) : exec (commandOfCode code) s = offerCode code s := by
  obtain h | h := commandOfCode_cases code
  · exact (offerCode_of_mem_hostRows h s).symm
  · rw [h]
    rfl

end Sys2Proof.Machine
end

section
/-! SUPPORT. What a row other than those of the supplies and RESET_N can do to what the invariants speak of: said once for each
block, so that each invariant is derived from it. -/

namespace Sys2Proof.Machine

/-! ## The part of the state that the invariants speak of -/

/-- The state with what no invariant speaks of (staging, copies, enables, flags, the bus) at its reset value. -/
def State.bare (s : State) : State where
  power := { s.power with skipCycles := 0 }
  tb := { TimeBase.coldStart with count := s.tb.count, generation := s.tb.generation, run := s.tb.run, phase := s.tb.phase }
  biu := .reset
  au := { Agenda.reset with slots := s.au.slots, dueList := s.au.dueList }
  du := { DispatchUnit.reset with lines := s.du.lines, tickOwed := s.du.tickOwed }
  mm := { MessageMemory.lost s.mm.epoch with store := s.mm.store, directory := s.mm.directory }
  ser := { Serial.reset with chans := s.ser.chans }
  evi := .reset
  cu := { s.cu with readIndex := 0 }
  tu := { Triggers.reset with answers := s.tu.answers }
  niu := { Notices.reset with queue := s.niu.queue, lost := s.niu.lost, threshold := s.niu.threshold }
  hostRead := none
  gapDraws := 0
  idleTicks := 0
  pending := s.pending

/-- Two states differ in nothing that an invariant speaks of. -/
def State.alike (s t : State) : Prop := t.bare = s.bare

/-! ## The effects, by block -/

/-- The Time Base: a time load or step (R12 to R14), RUN and STOP (R15, R17), periods without a tick (R1). -/
inductive TimeEffect (s : State) : State → Prop
  | sets (count phase : Nat) (hcount : count ≤ Config.endTime) (hphase : phase = 0 ∨ phase = s.tb.phase) :
      TimeEffect s { s with tb := { s.tb with count := count, generation := s.tb.generation + 1, phase := phase } }
  | runs (run : RunState) : TimeEffect s { s with tb := { s.tb with run := run } }
  | passes (periods : Nat) (h : s.tb.phase + periods < 8) :
      TimeEffect s { s with tb := { s.tb with phase := s.tb.phase + periods } }

/-- The Agenda Unit, but for an occurrence: the completion of a command (R27) and a group of arm requests (R62). -/
inductive AgendaEffect (s : State) : State → Prop
  | decides (f : InFlight) : AgendaEffect s { s with au := (decideAgenda f s.tb.count s.au).1 }
  | answers (g : List ArmRequest) (rest : List (List ArmRequest)) (h : s.tu.answers = g :: rest) :
      AgendaEffect s (g.foldl takeArmRequest (s.withAnswers rest))

/-- The Message Memory: a byte written outside every busy range (R90), a descriptor replaced while its message is not busy (R81,
R82). -/
inductive MemoryEffect (s : State) : State → Prop
  | writes (i : Nat) (byte : Byte) (hi : i < Config.storeSize) (hfree : busyAt s.mm i = false) :
      MemoryEffect s { s with mm := { s.mm with store := Memory.write s.mm.store i byte } }
  | describes (m : Fin 32) (defined : Bool) (offset length : Nat) (hbusy : s.mm.directory[m].busy = 0)
      (hdefined : defined = true → 1 ≤ length ∧ length ≤ 256 ∧ offset + length ≤ Config.storeSize)
      (hundefined : defined = false → offset = 0 ∧ length = 0) :
      MemoryEffect s { s with mm := { s.mm with
        directory := s.mm.directory.set m
          { s.mm.directory[m] with defined := defined, offset := offset, length := length } } }

/-- A transmitter: a boundary on its line, at which what it puts out goes on or its head leaves (R104 to R107), a request that
joins (R101, R102), an abort (R107) and a transmit reset (R109); CH_CONFIG (R95) with its receiver beside it. -/
inductive TransmitEffect (s : State) (ch : Channel) : State → Prop
  | settles : TransmitEffect s ch (s.withTx ch (s.tx ch).settle)
  | goesOn (t : Transmitter) (hqueue : t.queue = (s.tx ch).queue) (hstate : t.state = (s.tx ch).state)
      (howed : t.tickOwed = false) : TransmitEffect s ch (putOnLine ch t (s.withTx ch (s.tx ch).settle))
  | leaves (body : Fin 32 → Source → NoticeBody) :
      TransmitEffect s ch (headLeaves ch body (s.withTx ch (s.tx ch).settle))
  | sends (m : Fin 32) (source : Source) (notify : Bool) (h : sendRefusal s ch m = none) :
      TransmitEffect s ch (joinSend ch m source notify s)
  | breaks (length : Nat) (h : queueRefusal s ch = none) : TransmitEffect s ch (joinBreak ch length s)
  | aborts : TransmitEffect s ch (s.withTx ch (s.tx ch).abort)
  | resets : TransmitEffect s ch (resetTransmitter ch s)
  | configures (config : ChannelConfig) (r : Receiver) (hqueue : (s.tx ch).queue = [])
      (hrx : r.frame = (s.rx ch).frame ∧ r.state = (s.rx ch).state) :
      TransmitEffect s ch { s with ser := { s.ser with chans := s.ser.chans.set ch { s.chan ch with config := config, rx := r } } }

/-- What an event of a receiver within or outside a frame, but not at its start or end, keeps: the frame part, and that no frame
is in hand in IDLE or BREAK. -/
def Receiver.keepsFrame (r x : Receiver) : Prop :=
  x.frame = r.frame ∧ (x.state = .idle ∨ x.state = .brk → r.state = .idle ∨ r.state = .brk ∨ r.frame = .none)

/-- A receiver: its level and its character in hand (R116 to R119), the start, the characters and the end of a frame (R120 to
R125), a break in IDLE (R118), CH_RX_RESET (R127) and LOOP_SET (R110). -/
inductive ReceiveEffect (s : State) (ch : Channel) : State → Prop
  | moves (r : Receiver) (h : (s.rx ch).keepsFrame r) : ReceiveEffect s ch (s.withRx ch r)
  | starts (r : Receiver) (hstate : r.state = .inChar) (hframe : (s.rx ch).frame = .none) :
      ReceiveEffect s ch (startFrame ch (s.withRx ch r))
  | takes (byte : Byte) (parityWrong stopBit : Bool) (r : Receiver) (hframe : r.frame = (s.rx ch).frame) :
      ReceiveEffect s ch (takeCharacter ch byte parityWrong stopBit (s.withRx ch r))
  | ends (cause : EndCause) (r : Receiver) (hframe : r.frame = (s.rx ch).frame) :
      ReceiveEffect s ch (endFrame ch cause (s.withRx ch r))
  | breaks (stamp : Stamp) (hstate : (s.rx ch).state = .idle) :
      ReceiveEffect s ch
        ((if s.cu.slotFree then closeRecord (breakRecord ch stamp (s.cu.rings.get ch).freeEnd) s
          else dropFrame ch s).withRx ch { s.rx ch with state := .brk })
  | abandons (r : Receiver) (hframe : r.frame = .none) :
      ReceiveEffect s ch { s.withRx ch r with cu := abandonRecord ch s.cu }

/-- The Capture Unit beside the receivers: a group of edges (R130), CAP_POP (R143) and CAP_FLUSH (R146). -/
inductive CaptureEffect (s : State) : State → Prop
  | edges (stamp : Stamp) (edges : List (Fin 4 × EdgeDir)) : CaptureEffect s (edges.foldl (offerEdge stamp) s)
  | pops (r : CaptureRecord) (rest : List CaptureRecord) (h : s.cu.queue = r :: rest) :
      CaptureEffect s { s with cu := { discardWindow s.cu with window := some r, queue := rest, readIndex := 0 } }
  | flushes : CaptureEffect s { s with cu :=
      { s.cu with
        queue := [], window := none, readIndex := 0, dropped := { a := 0, b := 0 }, droppedEv := 0,
        rings := { a := s.cu.rings.a.keepNewest (s.cu.openLength .a),
                   b := s.cu.rings.b.keepNewest (s.cu.openLength .b) } } }

/-- The Notice and Interrupt Unit: NOTICE_POP, NOTICE_FLUSH and NOTICE_THRESHOLD (R168, R170, R172). -/
inductive NoticeEffect (s : State) : State → Prop
  | pops (n : Notice) (rest : List Notice) (h : s.niu.queue = n :: rest) :
      NoticeEffect s { s with niu := { s.niu with queue := rest } }
  | flushes : NoticeEffect s { s with niu := { s.niu with queue := [], lost := 0 } }
  | threshold (byte : Byte) : NoticeEffect s (writeThreshold byte s)

/-- One effect of a row on what the invariants speak of. -/
inductive Effect (s : State) : State → Prop
  | quiet : Effect s s
  | time {t : State} (h : TimeEffect s t) : Effect s t
  | tick (ev : BitVec 4) (order : TickOrder) : Effect s (issueTick ev order s)
  | pulseEnd : Effect s s.pulseEnded
  | lineWrite (setMask clearMask drive : BitVec 8) (width : Nat) :
      Effect s { s with du := lineAction setMask clearMask width .host (setDrive drive s.du) }
  | agenda {t : State} (h : AgendaEffect s t) : Effect s t
  | occurrence (i : Fin 64) (rest : List (Fin 64)) (h : s.takes i rest) : Effect s (bringTicks (takeOccurrence i rest s))
  | memory {t : State} (h : MemoryEffect s t) : Effect s t
  | transmit (ch : Channel) {t : State} (h : TransmitEffect s ch t) : Effect s t
  | receive (ch : Channel) {t : State} (h : ReceiveEffect s ch t) : Effect s t
  | watchAfresh (a b : Option Bool) :
      Effect s ((s.withRx .a ((s.rx .a).watchAfresh a)).withRx .b ((s.rx .b).watchAfresh b))
  | capture {t : State} (h : CaptureEffect s t) : Effect s t
  | detaches (k : Fin 8) : Effect s { s with tu := detachRequests k s.tu }
  | notices {t : State} (h : NoticeEffect s t) : Effect s t
  | resets : Effect s (resetKeepingStore s)

/-- A state is followed by one that an effect makes, what no invariant speaks of apart. -/
def State.affects (s t : State) : Prop := ∃ u v, s.alike u ∧ Effect u v ∧ v.alike t

theorem State.affects.of_effect {s t : State} (h : Effect s t) : s.affects t := ⟨s, t, rfl, h, rfl⟩

theorem State.affects.of_alike {s t : State} (h : s.alike t) : s.affects t := ⟨s, s, rfl, .quiet, h⟩

/-- What no invariant speaks of may change before and after an effect. -/
theorem State.affects.congr {s t s' t' : State} (h : s'.affects t') (hs : s.alike s') (ht : t'.alike t) : s.affects t := by
  obtain ⟨u, v, hu, he, hv⟩ := h
  exact ⟨u, v, hu.trans hs, he, ht.trans hv⟩

/-! ## The bus and the command port -/

theorem affects_whenMain {s : State} {f : State → State} (h : s.mainUp → s.affects (f s)) : s.affects (whenMain s f) := by
  by_cases hup : s.mainUp
  · rw [whenMain_up s f hup]
    exact h hup
  · rw [whenMain_down s f hup]
    exact .of_alike rfl

theorem affects_onBus {s : State} {f : State → State} (h : s.affects (f s)) : s.affects (onBus s f) := by
  obtain ⟨-, heq⟩ | ⟨n, -, -, heq⟩ | ⟨-, -, heq⟩ := onBus_cases s f
  · rw [heq]
    exact .of_alike rfl
  · rw [heq]
    exact .of_alike rfl
  · rw [heq]
    exact h

theorem affects_offer {s : State} {f : State → State}
    (h : State.affects { s with biu := { s.biu with cmdDone := false } } (f { s with biu := { s.biu with cmdDone := false } })) :
    s.affects (offer s f) := by
  refine affects_onBus ?_
  dsimp only
  split
  · exact .of_alike rfl
  · exact h.congr rfl rfl

theorem affects_atOnce {s : State} {f : State → State × ResultCode} (h : ∀ s : State, s.affects (f s).1) :
    s.affects (atOnce s f) :=
  affects_offer ((h _).congr rfl rfl)

theorem affects_readCycle {s : State} {side : State → State} (cycle : ReadCycle) (loc : Location) (h : s.affects (side s)) :
    s.affects (readCycle s cycle loc side) := by
  refine State.affects.congr (t' := match cycle with
    | .whole | .moved _ => onBus s side
    | .selectFirst | .bothStrobes => onBus s id) ?_ rfl rfl
  cases cycle with
  | whole | moved => exact affects_onBus h
  | selectFirst | bothStrobes => exact affects_onBus (.of_alike rfl)

theorem affects_channelCommand {s : State} {f : Channel → State → State × ResultCode} (h : ∀ ch, s.affects (f ch s).1) :
    s.affects (channelCommand s f).1 := by
  unfold channelCommand
  split
  · exact .of_alike rfl
  · exact h _

theorem affects_ruleCommand {s : State} {f : Fin 8 → State → State × ResultCode} (h : ∀ k, s.affects (f k s).1) :
    s.affects (ruleCommand s f).1 := by
  unfold ruleCommand
  split
  · exact .of_alike rfl
  · exact h _

end Sys2Proof.Machine
end

section
/-! SUPPORT. Which effect each row has: the commands that complete at once, the agenda commands and SOFT_RESET, the events, the
cycles on a location. -/

namespace Sys2Proof.Machine

/-! ## What changes only what no invariant speaks of -/

theorem keepsFrame_of_eq {r x : Receiver} (hframe : x.frame = r.frame) (hstate : x.state = r.state) : r.keepsFrame x :=
  ⟨hframe, fun h => by
    rw [hstate] at h
    exact h.elim .inl fun h => .inr (.inl h)⟩

/-- An event that brings a receiver into a frame's character, or leaves its frame in hand. -/
theorem keepsFrame_of_state {r x : Receiver} (hframe : x.frame = r.frame) (hstate : x.state = .inChar ∨ x.state = .inFrame) :
    r.keepsFrame x :=
  ⟨hframe, fun h => by
    obtain hs | hs := hstate <;> simp [hs] at h⟩

theorem affects_moves {s : State} {ch : Channel} {r : Receiver} (h : (s.rx ch).keepsFrame r) : s.affects (s.withRx ch r) :=
  .of_effect (.receive ch (.moves r h))

/-! ## Commands that complete at once -/

theorem timeSnapshot_affects (s : State) : ∃ t, exec .timeSnapshot s = .next t ∧ s.affects t :=
  ⟨_, rfl, affects_atOnce fun _ => .of_alike rfl⟩

theorem timeLoadCal_affects (s : State) : ∃ t, exec .timeLoadCal s = .next t ∧ s.affects t := by
  refine ⟨_, rfl, affects_atOnce fun s => ?_⟩
  dsimp only
  split
  · rename_i hvalid
    exact .congr (.of_effect (.time (.sets _ 0 (toTicks_le_endTime hvalid) (.inl rfl)))) rfl rfl
  · exact .of_alike rfl

theorem timeLoadCount_affects (s : State) : ∃ t, exec .timeLoadCount s = .next t ∧ s.affects t := by
  refine ⟨_, rfl, affects_atOnce fun s => ?_⟩
  dsimp only
  split
  · exact .of_alike rfl
  · rename_i hend
    exact .congr (.of_effect (.time (.sets _ 0 (Nat.not_lt.1 hend) (.inl rfl)))) rfl rfl

theorem timeStep_affects (s : State) : ∃ t, exec .timeStep s = .next t ∧ s.affects t := by
  refine ⟨_, rfl, affects_atOnce fun s => ?_⟩
  dsimp only
  split
  · exact .of_alike rfl
  · rename_i hrange
    exact .of_effect (.time (.sets _ s.tb.phase (by omega) (.inr rfl)))

theorem timeRun_affects (s : State) : ∃ t, exec .timeRun s = .next t ∧ s.affects t := by
  refine ⟨_, rfl, affects_atOnce fun s => ?_⟩
  dsimp only
  split
  · exact .of_alike rfl
  · exact .of_effect (.time (.runs _))

theorem timeStop_affects (s : State) : ∃ t, exec .timeStop s = .next t ∧ s.affects t :=
  ⟨_, rfl, affects_atOnce fun _ => .of_effect (.time (.runs _))⟩

theorem lineWrite_affects (s : State) : ∃ t, exec .lineWrite s = .next t ∧ s.affects t :=
  ⟨_, rfl, affects_atOnce fun _ => .of_effect (.lineWrite _ _ _ _)⟩

theorem lineRead_affects (s : State) : ∃ t, exec .lineRead s = .next t ∧ s.affects t :=
  ⟨_, rfl, affects_atOnce fun _ => .of_alike rfl⟩

theorem msgDefine_affects (s : State) : ∃ t, exec .msgDefine s = .next t ∧ s.affects t := by
  refine ⟨_, rfl, affects_atOnce fun s => ?_⟩
  dsimp only
  split
  · exact .of_alike rfl
  · split_ifs with hlength hrange hbusy
    · exact .of_alike rfl
    · exact .of_alike rfl
    · exact .of_alike rfl
    · exact .of_effect (.memory (.describes _ true _ _ (by omega) (fun _ => by omega) (by simp)))

theorem msgUndefine_affects (s : State) : ∃ t, exec .msgUndefine s = .next t ∧ s.affects t := by
  refine ⟨_, rfl, affects_atOnce fun s => ?_⟩
  dsimp only
  split
  · exact .of_alike rfl
  · split_ifs with hbusy
    · exact .of_alike rfl
    · exact .of_effect (.memory (.describes _ false 0 0 (by omega) (by simp) fun _ => ⟨rfl, rfl⟩))

theorem msgRead_affects (s : State) : ∃ t, exec .msgRead s = .next t ∧ s.affects t := by
  refine ⟨_, rfl, affects_atOnce fun s => ?_⟩
  dsimp only
  split <;> exact .of_alike rfl

theorem chConfig_affects (s : State) : ∃ t, exec .chConfig s = .next t ∧ s.affects t := by
  refine ⟨_, rfl, affects_atOnce fun s => affects_channelCommand fun ch => ?_⟩
  dsimp only
  split
  · exact .of_alike rfl
  · split_ifs with hqueue hstate
    · exact .of_alike rfl
    · exact .of_alike rfl
    · exact .of_effect (.transmit ch (.configures _ _ (by simpa using hqueue) ⟨rfl, rfl⟩))
    · exact .of_effect (.transmit ch (.configures _ _ (by simpa using hqueue) ⟨rfl, rfl⟩))

theorem chFrameConfig_affects (s : State) : ∃ t, exec .chFrameConfig s = .next t ∧ s.affects t := by
  refine ⟨_, rfl, affects_atOnce fun s => affects_channelCommand fun ch => ?_⟩
  dsimp only
  split
  · exact .of_alike rfl
  · split_ifs
    · exact .of_alike rfl
    · exact affects_moves (keepsFrame_of_eq rfl rfl)

theorem chSend_affects (s : State) : ∃ t, exec .chSend s = .next t ∧ s.affects t := by
  refine ⟨_, rfl, affects_atOnce fun s => affects_channelCommand fun ch => ?_⟩
  split
  · exact .of_alike rfl
  · split
    · exact .of_alike rfl
    · exact .of_alike rfl
    · exact .of_alike rfl
    · rename_i h
      exact .of_effect (.transmit ch (.sends _ _ _ h))

theorem chBreak_affects (s : State) : ∃ t, exec .chBreak s = .next t ∧ s.affects t := by
  refine ⟨_, rfl, affects_atOnce fun s => affects_channelCommand fun ch => ?_⟩
  dsimp only
  split
  · exact .of_alike rfl
  · split
    · exact .of_alike rfl
    · exact .of_alike rfl
    · rename_i h
      exact .of_effect (.transmit ch (.breaks _ h))

theorem chAbort_affects (s : State) : ∃ t, exec .chAbort s = .next t ∧ s.affects t :=
  ⟨_, rfl, affects_atOnce fun _ => affects_channelCommand fun ch => .of_effect (.transmit ch .aborts)⟩

theorem chTxReset_affects (s : State) : ∃ t, exec .chTxReset s = .next t ∧ s.affects t :=
  ⟨_, rfl, affects_atOnce fun _ => affects_channelCommand fun ch => .of_effect (.transmit ch .resets)⟩

theorem chRxReset_affects (s : State) : ∃ t, exec .chRxReset s = .next t ∧ s.affects t :=
  ⟨_, rfl, affects_atOnce fun _ => affects_channelCommand fun ch => .of_effect (.receive ch (.abandons _ rfl))⟩

theorem chRead_affects (s : State) : ∃ t, exec .chRead s = .next t ∧ s.affects t := by
  refine ⟨_, rfl, affects_atOnce fun s => affects_channelCommand fun ch => ?_⟩
  have hfound : (s.rx ch).keepsFrame (receiverFound s ch) := by
    unfold receiverFound
    dsimp only
    split <;> exact keepsFrame_of_eq rfl rfl
  exact (affects_moves hfound).congr rfl rfl

theorem loopSet_affects (s : State) : ∃ t, exec .loopSet s = .next t ∧ s.affects t := by
  refine ⟨_, rfl, affects_atOnce fun s => ?_⟩
  dsimp only
  split
  · exact .of_alike rfl
  · split_ifs
    · exact .of_alike rfl
    · exact .of_alike rfl
    · exact .of_alike rfl
    · exact .congr (.of_effect (.watchAfresh (some true) (some true))) rfl rfl
    · exact .congr (.of_effect (.watchAfresh none none)) rfl rfl

theorem evConfig_affects (s : State) : ∃ t, exec .evConfig s = .next t ∧ s.affects t :=
  ⟨_, rfl, affects_atOnce fun _ => .of_alike rfl⟩

theorem capPop_affects (s : State) : ∃ t, exec .capPop s = .next t ∧ s.affects t := by
  refine ⟨_, rfl, affects_atOnce fun s => ?_⟩
  dsimp only
  split
  · exact .of_alike rfl
  · rename_i h
    exact .of_effect (.capture (.pops _ _ h))

theorem capFlush_affects (s : State) : ∃ t, exec .capFlush s = .next t ∧ s.affects t :=
  ⟨_, rfl, affects_atOnce fun _ => .of_effect (.capture .flushes)⟩

theorem trigWrite_affects (s : State) : ∃ t, exec .trigWrite s = .next t ∧ s.affects t := by
  refine ⟨_, rfl, affects_atOnce fun s => affects_ruleCommand fun k => ?_⟩
  dsimp only
  split
  · exact .of_alike rfl
  · exact .congr (.of_effect (.detaches k)) rfl rfl

theorem trigRead_affects (s : State) : ∃ t, exec .trigRead s = .next t ∧ s.affects t :=
  ⟨_, rfl, affects_atOnce fun _ => affects_ruleCommand fun _ => .of_alike rfl⟩

theorem trigDisable_affects (s : State) : ∃ t, exec .trigDisable s = .next t ∧ s.affects t :=
  ⟨_, rfl, affects_atOnce fun _ => affects_ruleCommand fun k => .congr (.of_effect (.detaches k)) rfl rfl⟩

theorem noticePop_affects (s : State) : ∃ t, exec .noticePop s = .next t ∧ s.affects t := by
  refine ⟨_, rfl, affects_atOnce fun s => ?_⟩
  dsimp only
  split
  · exact .of_alike rfl
  · rename_i h
    exact .congr (.of_effect (.notices (.pops _ _ h))) rfl rfl

theorem noticeFlush_affects (s : State) : ∃ t, exec .noticeFlush s = .next t ∧ s.affects t :=
  ⟨_, rfl, affects_atOnce fun _ => .of_effect (.notices .flushes)⟩

theorem badCommand_affects (s : State) : ∃ t, badCommand s = .next t ∧ s.affects t :=
  ⟨_, rfl, affects_atOnce fun _ => .of_alike rfl⟩

/-! ## The other commands of the code table -/

theorem acceptAgenda_affects (command : AgendaCommand) (s : State) : s.affects (acceptAgenda command s) :=
  affects_offer (.of_alike rfl)

theorem softReset_affects (s : State) : ∃ t, exec .softReset s = .next t ∧ s.affects t :=
  ⟨_, rfl, affects_offer (.of_effect .resets)⟩

theorem hostRows_affects {c : Instr} (h : c ∈ hostRows) (s : State) : ∃ t, exec c s = .next t ∧ s.affects t := by
  fin_cases h
  · exact timeSnapshot_affects s
  · exact timeLoadCal_affects s
  · exact timeLoadCount_affects s
  · exact timeStep_affects s
  · exact timeRun_affects s
  · exact timeStop_affects s
  · exact ⟨_, rfl, acceptAgenda_affects _ s⟩
  · exact ⟨_, rfl, acceptAgenda_affects _ s⟩
  · exact ⟨_, rfl, acceptAgenda_affects _ s⟩
  · exact ⟨_, rfl, acceptAgenda_affects _ s⟩
  · exact ⟨_, rfl, acceptAgenda_affects _ s⟩
  · exact ⟨_, rfl, acceptAgenda_affects _ s⟩
  · exact ⟨_, rfl, acceptAgenda_affects _ s⟩
  · exact lineWrite_affects s
  · exact lineRead_affects s
  · exact msgDefine_affects s
  · exact msgUndefine_affects s
  · exact msgRead_affects s
  · exact chConfig_affects s
  · exact chFrameConfig_affects s
  · exact chSend_affects s
  · exact chBreak_affects s
  · exact chAbort_affects s
  · exact chTxReset_affects s
  · exact chRxReset_affects s
  · exact chRead_affects s
  · exact loopSet_affects s
  · exact evConfig_affects s
  · exact capPop_affects s
  · exact capFlush_affects s
  · exact trigWrite_affects s
  · exact trigRead_affects s
  · exact trigDisable_affects s
  · exact noticePop_affects s
  · exact noticeFlush_affects s
  · exact softReset_affects s

theorem offerCode_affects (code : Byte) (s : State) : ∃ t, offerCode code s = .next t ∧ s.affects t := by
  obtain h | h := commandOfCode_cases code
  · rw [offerCode_of_mem_hostRows h]
    exact hostRows_affects h s
  · rw [offerCode_of_unknown h]
    exact badCommand_affects s

end Sys2Proof.Machine
end

section
/-! SUPPORT. Which effect the events of the blocks and the bus cycles have, and with them every row but those of the supplies and
RESET_N. -/

namespace Sys2Proof.Machine

/-! ## Events of the Time Base, the Dispatch Unit, the Agenda Unit and the Capture Unit -/

theorem passPeriods_affects (periods : Nat) (ev : BitVec 4) (order : TickOrder) (s : State) :
    s.affects (passPeriods periods ev order s) := by
  unfold passPeriods
  split_ifs with hheld hshort
  · exact .of_effect (.time (.passes periods hshort))
  · exact .of_effect (.tick ev order)
  · exact .of_alike rfl

theorem oscillatorPeriod_affects (s : State) : s.affects (oscillatorPeriod s) := by
  unfold oscillatorPeriod
  split_ifs
  · exact (passPeriods_affects 1 _ _ { s with idleTicks := s.idleTicks + 1 }).congr rfl rfl
  · exact passPeriods_affects 1 _ _ s

theorem completeAgenda_affects (s : State) : s.affects (completeAgenda s) := by
  unfold completeAgenda
  split
  · exact .of_alike rfl
  · exact .congr (.of_effect (.agenda (.decides _))) rfl rfl

theorem occurrence_affects (s : State) : ∃ t, exec .occurrence s = .next t ∧ s.affects t := by
  refine ⟨_, rfl, affects_whenMain fun hup => ?_⟩
  split
  · exact .of_alike rfl
  · rename_i i rest hlist
    split_ifs with hdue
    · exact .of_effect (.occurrence i rest ⟨hup, hdue.1, hlist, hdue.2⟩)
    · exact .of_alike rfl

theorem armRequestGroup_affects (s : State) : ∃ t, exec .armRequestGroup s = .next t ∧ s.affects t := by
  refine ⟨_, rfl, affects_whenMain fun _ => ?_⟩
  split
  · exact .of_alike rfl
  · rename_i g rest hanswers
    exact .of_effect (.agenda (.answers g rest hanswers))

theorem edgeGroup_affects (s : State) : ∃ t, exec .edgeGroup s = .next t ∧ s.affects t := by
  refine ⟨_, rfl, affects_whenMain fun _ => ?_⟩
  split
  · exact .of_alike rfl
  · rename_i g rest _
    exact .congr (s' := { s with evi := { s.evi with found := rest } }) (.of_effect (.capture (.edges _ g.edges))) rfl rfl

/-! ## Events of a transmitter -/

theorem Transmitter.settle_queue (t : Transmitter) : t.settle.queue = t.queue := by
  rw [Transmitter.settle_eq]
  split <;> rfl

theorem Transmitter.settle_state (t : Transmitter) : t.settle.state = t.state := by
  rw [Transmitter.settle_eq]
  split <;> rfl

/-- At a boundary the transmitter takes a tick on its way, and what its line then carries goes on, or its head leaves. -/
theorem atBoundary_affects {s : State} {ch : Channel} {f : State → State}
    (h : ∀ u : State, (u.tx ch).tickOwed = false → f u = u ∨ (∃ body, f u = headLeaves ch body u) ∨
      ∃ t : Transmitter, t.queue = (u.tx ch).queue ∧ t.state = (u.tx ch).state ∧ t.tickOwed = (u.tx ch).tickOwed ∧
        f u = putOnLine ch t u) :
    s.affects (atBoundary ch s f) := by
  refine affects_whenMain fun _ => ?_
  have howed : ((s.withTx ch (s.tx ch).settle).tx ch).tickOwed = false := by
    rw [withTx_tx]
    exact settle_tx_tickOwed _
  obtain heq | ⟨body, heq⟩ | ⟨t, hqueue, hstate, ht, heq⟩ := h _ howed
  · rw [heq]
    exact .of_effect (.transmit ch .settles)
  · rw [heq]
    exact .of_effect (.transmit ch (.leaves body))
  · rw [heq]
    rw [withTx_tx] at hqueue hstate
    exact .of_effect (.transmit ch (.goesOn t (hqueue.trans (Transmitter.settle_queue _))
      (hstate.trans (Transmitter.settle_state _)) (ht.trans howed)))

theorem txCharacterEnd_affects (ch : Channel) (s : State) : ∃ t, exec (.txCharacterEnd ch) s = .next t ∧ s.affects t := by
  refine ⟨_, rfl, atBoundary_affects fun u _ => ?_⟩
  dsimp only
  split
  · split_ifs
    · exact .inr (.inl ⟨_, rfl⟩)
    · refine .inr (.inr ⟨_, ?_, ?_, ?_, rfl⟩) <;> rfl
    · exact .inr (.inl ⟨_, rfl⟩)
  · exact .inl rfl

theorem txBreakTimeEnd_affects (ch : Channel) (s : State) : ∃ t, exec (.txBreakTimeEnd ch) s = .next t ∧ s.affects t := by
  refine ⟨_, rfl, atBoundary_affects fun u _ => ?_⟩
  dsimp only
  split
  · split_ifs
    · exact .inr (.inl ⟨_, rfl⟩)
    · refine .inr (.inr ⟨_, ?_, ?_, ?_, rfl⟩) <;> rfl
  · exact .inl rfl

theorem txLeadEnd_affects (ch : Channel) (s : State) : ∃ t, exec (.txLeadEnd ch) s = .next t ∧ s.affects t := by
  refine ⟨_, rfl, atBoundary_affects fun u _ => ?_⟩
  dsimp only
  split
  · split_ifs
    · exact .inr (.inl ⟨_, rfl⟩)
    · split
      · refine .inr (.inr ⟨_, ?_, ?_, ?_, rfl⟩) <;> rfl
      · refine .inr (.inr ⟨_, ?_, ?_, ?_, rfl⟩) <;> rfl
      · exact .inl rfl
  · exact .inl rfl

/-! ## Events of a receiver -/

theorem affects_whenListening {s : State} {ch : Channel} {f : State → State} (h : s.affects (f s)) :
    s.affects (whenListening ch s f) := by
  refine affects_whenMain fun _ => ?_
  split_ifs
  · exact h
  · exact .of_alike rfl

/-- A fall leaves the frame in hand, and IDLE for a character only. -/
theorem fall_keepsFrame (now : Stamp) (gap : Nat) (heard : Option LoopHeard) (place : LinePlace) (r : Receiver) :
    r.keepsFrame { r.fall now gap heard with place := place } := by
  cases hs : r.state <;> simp [Receiver.keepsFrame, Receiver.fall, hs]
  split <;> simp

theorem rise_keepsFrame (place : LinePlace) (r : Receiver) : r.keepsFrame { r.rise with place := place } := by
  cases hs : r.state <;> simp [Receiver.keepsFrame, Receiver.rise, hs]

theorem rxFall_affects (ch : Channel) (fall : Fall) (s : State) : ∃ t, exec (.rxFall ch fall) s = .next t ∧ s.affects t := by
  refine ⟨_, rfl, affects_whenListening ?_⟩
  dsimp only
  split_ifs
  · exact .of_alike rfl
  · exact affects_moves (fall_keepsFrame _ _ _ _ _)

theorem rxRise_affects (ch : Channel) (s : State) : ∃ t, exec (.rxRise ch) s = .next t ∧ s.affects t := by
  refine ⟨_, rfl, affects_whenListening ?_⟩
  split
  · exact .of_alike rfl
  · exact affects_moves (rise_keepsFrame _ _)

theorem markQualified_affects (ch : Channel) (s : State) : ∃ t, exec (.markQualified ch) s = .next t ∧ s.affects t := by
  refine ⟨_, rfl, affects_whenListening ?_⟩
  split_ifs
  · exact .of_alike rfl
  · split
    · exact .of_alike rfl
    · exact affects_moves (keepsFrame_of_eq rfl rfl)

theorem startBitSample_affects (ch : Channel) (level : Bool) (s : State) :
    ∃ t, exec (.startBitSample ch level) s = .next t ∧ s.affects t := by
  refine ⟨_, rfl, affects_whenListening ?_⟩
  dsimp only
  split_ifs with hcan hlevel hnone hnone
  · exact .of_alike rfl
  · exact affects_moves ⟨rfl, fun _ => .inr (.inr hnone)⟩
  · exact affects_moves (keepsFrame_of_state rfl (.inr rfl))
  · exact .of_effect (.receive ch (.starts _ (by tauto) hnone))
  · exact affects_moves (keepsFrame_of_state rfl (.inl (by tauto)))

theorem rxCharacterComplete_affects (ch : Channel) (data : Byte) (parityBit stopBit : Bool) (s : State) :
    ∃ t, exec (.rxCharacterComplete ch data parityBit stopBit) s = .next t ∧ s.affects t := by
  refine ⟨_, rfl, affects_whenListening ?_⟩
  dsimp only
  split_ifs
  · exact .of_alike rfl
  · exact .of_effect (.receive ch (.takes _ _ _ _ rfl))

theorem gapExpiry_affects (ch : Channel) (s : State) : ∃ t, exec (.gapExpiry ch) s = .next t ∧ s.affects t := by
  refine ⟨_, rfl, affects_whenListening ?_⟩
  split_ifs
  · split
    · exact .of_alike rfl
    · exact .of_effect (.receive ch (.ends _ _ rfl))
  · exact .of_alike rfl

/-- A frame that a break ends, with nothing else of the receiver changed before. -/
theorem affects_endFrame (s : State) (ch : Channel) (cause : EndCause) : s.affects (endFrame ch cause s) := by
  have hends := ReceiveEffect.ends (s := s) (ch := ch) cause (s.rx ch) rfl
  rw [withRx_self] at hends
  exact .of_effect (.receive ch hends)

theorem rx_of_ser {s t : State} (h : t.ser = s.ser) (ch : Channel) : t.rx ch = s.rx ch := by
  rw [State.rx, State.chan, h]
  rfl

theorem breakDetected_affects (ch : Channel) (s : State) : ∃ t, exec (.breakDetected ch) s = .next t ∧ s.affects t := by
  refine ⟨_, rfl, affects_whenListening ?_⟩
  dsimp only
  split
  · exact .of_alike rfl
  · rename_i low _
    by_cases hcan : breakCanBe s ch low = true
    · rw [if_pos hcan]
      split
      · exact .of_alike rfl
      · split_ifs
        · exact affects_endFrame s ch .brk
        · exact .of_alike rfl
      · exact affects_endFrame s ch .brk
      · rename_i hidle
        rw [rx_of_ser (t := ite _ _ _) (s := s) (by split_ifs <;> simp)]
        exact .of_effect (.receive ch (.breaks low.stamp hidle))
    · rw [if_neg hcan]
      exact .of_alike rfl

/-! ## Bus cycles -/

theorem writeData_affects (byte : Byte) (s : State) : s.affects (writeData byte s) := by
  by_cases hbusy : busyAt s.mm s.mm.pointer.toNat = true
  · rw [writeData_busy hbusy]
    exact .of_alike rfl
  · rw [writeData_free hbusy]
    exact .congr (.of_effect (.memory (.writes _ byte s.mm.pointer.isLt (Bool.not_eq_true _ ▸ hbusy)))) rfl rfl

theorem writeThreshold_affects (byte : Byte) (s : State) : s.affects (writeThreshold byte s) :=
  .of_effect (.notices (.threshold byte))

theorem writeStaging_alike (i : Nat) (byte : Byte) (s : State) : s.alike (writeStaging i byte s) := by
  unfold writeStaging
  split
  case h_2 => split_ifs <;> rfl
  all_goals rfl

theorem onBus_id_alike (s : State) : s.alike (onBus s id) := by
  obtain ⟨-, heq⟩ | ⟨n, -, -, heq⟩ | ⟨-, -, heq⟩ := onBus_cases s id <;> rw [heq] <;> rfl

theorem readCycle_id_alike (s : State) (cycle : ReadCycle) (loc : Location) : s.alike (readCycle s cycle loc id) := by
  cases cycle <;> exact onBus_id_alike s

theorem resultRead_affects (cycle : ReadCycle) (meet : ResultMeet) (s : State) :
    ∃ t, exec (.resultRead cycle meet) s = .next t ∧ s.affects t := by
  have hread : s.affects (readCycle s cycle 0x03 fun s => { s with biu := { s.biu with cmdDone := false } }) :=
    affects_readCycle cycle _ (.of_alike rfl)
  have hmet : s.affects (readCycle (whenMain s completeAgenda) cycle 0x03 id) :=
    (affects_whenMain fun _ => completeAgenda_affects s).congr rfl (readCycle_id_alike _ cycle 0x03)
  cases meet with
  | none => exact ⟨_, rfl, hread⟩
  | latchesOld =>
    by_cases hbusy : s.portBusy = true
    · exact ⟨_, if_pos hbusy, hmet.congr rfl rfl⟩
    · exact ⟨_, if_neg hbusy, hread⟩
  | latchesNew =>
    by_cases hbusy : s.portBusy = true
    · exact ⟨_, if_pos hbusy, hmet⟩
    · exact ⟨_, if_neg hbusy, hread⟩

theorem writeLocation_affects (loc : Location) (byte : Byte) (s : State) :
    ∃ t, writeLocation loc byte s = .next t ∧ s.affects t := by
  unfold writeLocation
  split
  case h_3 => exact offerCode_affects byte s
  case h_7 => exact ⟨_, rfl, affects_onBus (writeThreshold_affects byte s)⟩
  case h_10 => exact ⟨_, rfl, affects_onBus (writeData_affects byte s)⟩
  case h_17 => exact ⟨_, rfl, affects_onBus (.of_alike (writeStaging_alike _ byte s))⟩
  all_goals exact ⟨_, rfl, affects_onBus (.of_alike rfl)⟩

theorem registerWrite_affects (cycle : WriteCycle) (loc : Location) (byte : Byte) (s : State) :
    ∃ t, exec (.registerWrite cycle loc byte) s = .next t ∧ s.affects t := by
  cases cycle with
  | taken => exact writeLocation_affects loc byte s
  | notSelected | bothStrobes => exact ⟨_, rfl, .of_alike (onBus_id_alike s)⟩

/-! ## Every row but those of the supplies and RESET_N -/

/-- The rows of the supplies and RESET_N (R18, R183). -/
def supplyRow : Instr → Bool
  | .coldStart _ _ | .mainPowerUp _ | .vmainFall _ | .resetNAssert | .resetNRelease _ | .backupDomainLoss => true
  | _ => false

theorem exec_affects {c : Instr} (h : supplyRow c = false) (s : State) : ∃ t, exec c s = .next t ∧ s.affects t := by
  by_cases hhost : c ∈ hostRows
  · exact hostRows_affects hhost s
  · cases c with
    | tick ev order => exact ⟨_, rfl, passPeriods_affects _ ev order s⟩
    | pulseEnd => exact ⟨_, rfl, affects_whenMain fun _ => .of_effect .pulseEnd⟩
    | occurrence => exact occurrence_affects s
    | txCharacterEnd ch => exact txCharacterEnd_affects ch s
    | txBreakTimeEnd ch => exact txBreakTimeEnd_affects ch s
    | txLeadEnd ch => exact txLeadEnd_affects ch s
    | rxFall ch fall => exact rxFall_affects ch fall s
    | rxRise ch => exact rxRise_affects ch s
    | markQualified ch => exact markQualified_affects ch s
    | startBitSample ch level => exact startBitSample_affects ch level s
    | rxCharacterComplete ch data parityBit stopBit => exact rxCharacterComplete_affects ch data parityBit stopBit s
    | gapExpiry ch => exact gapExpiry_affects ch s
    | breakDetected ch => exact breakDetected_affects ch s
    | edgeGroup => exact edgeGroup_affects s
    | armRequestGroup => exact armRequestGroup_affects s
    | agendaCommandCompletion => exact ⟨_, rfl, affects_whenMain fun _ => completeAgenda_affects s⟩
    | unknownCommandCode code => exact offerCode_affects code s
    | resultRead cycle meet => exact resultRead_affects cycle meet s
    | mmPtrLowWrite | mmPtrHighWrite | faultWrite | faultEnableWrite | causeEnableWrite =>
      exact ⟨_, rfl, affects_onBus (.of_alike rfl)⟩
    | mmPtrLowRead cycle | mmDataRead cycle => exact ⟨_, rfl, affects_readCycle cycle _ (.of_alike rfl)⟩
    | mmDataWrite byte => exact ⟨_, rfl, affects_onBus (writeData_affects byte s)⟩
    | capDataRead cycle =>
      refine ⟨_, rfl, affects_readCycle cycle _ (.of_alike ?_)⟩
      unfold advanceReadIndex
      split
      · rfl
      · split_ifs <;> rfl
    | noticeThresholdWrite byte => exact ⟨_, rfl, affects_onBus (writeThreshold_affects byte s)⟩
    | registerWrite cycle loc byte => exact registerWrite_affects cycle loc byte s
    | coldStart | mainPowerUp | vmainFall | resetNAssert | resetNRelease | backupDomainLoss => simp [supplyRow] at h
    | _ => simp [hostRows] at hhost

end Sys2Proof.Machine
end

section
/-! SUPPORT. Which blocks each effect leaves as they were. -/

namespace Sys2Proof.Machine

/-! ## States that are alike -/

section
variable {s t : State} (h : s.alike t)
include h

theorem State.alike.vmainGood : t.power.vmainGood = s.power.vmainGood := congrArg (fun u => u.power.vmainGood) h

theorem State.alike.backupHeld : t.power.backupHeld = s.power.backupHeld := congrArg (fun u => u.power.backupHeld) h

theorem State.alike.resetHigh : t.power.resetHigh = s.power.resetHigh := congrArg (fun u => u.power.resetHigh) h

theorem State.alike.count : t.tb.count = s.tb.count := congrArg (fun u => u.tb.count) h

theorem State.alike.generation : t.tb.generation = s.tb.generation := congrArg (fun u => u.tb.generation) h

theorem State.alike.run : t.tb.run = s.tb.run := congrArg (fun u => u.tb.run) h

theorem State.alike.phase : t.tb.phase = s.tb.phase := congrArg (fun u => u.tb.phase) h

theorem State.alike.slots : t.au.slots = s.au.slots := congrArg (fun u => u.au.slots) h

theorem State.alike.dueList : t.au.dueList = s.au.dueList := congrArg (fun u => u.au.dueList) h

theorem State.alike.lines : t.du.lines = s.du.lines := congrArg (fun u => u.du.lines) h

theorem State.alike.du_tickOwed : t.du.tickOwed = s.du.tickOwed := congrArg (fun u => u.du.tickOwed) h

theorem State.alike.store : t.mm.store = s.mm.store := congrArg (fun u => u.mm.store) h

theorem State.alike.epoch : t.mm.epoch = s.mm.epoch := congrArg (fun u => u.mm.epoch) h

theorem State.alike.directory : t.mm.directory = s.mm.directory := congrArg (fun u => u.mm.directory) h

theorem State.alike.chans : t.ser.chans = s.ser.chans := congrArg (fun u => u.ser.chans) h

theorem State.alike.answers : t.tu.answers = s.tu.answers := congrArg (fun u => u.tu.answers) h

theorem State.alike.pending : t.pending = s.pending := congrArg (fun u => u.pending) h

theorem State.alike.chan (ch : Channel) : t.chan ch = s.chan ch := congrArg (fun u => u.chan ch) h

theorem State.alike.tx (ch : Channel) : t.tx ch = s.tx ch := congrArg (fun u => u.tx ch) h

theorem State.alike.rx (ch : Channel) : t.rx ch = s.rx ch := congrArg (fun u => u.rx ch) h

end

/-! ## The blocks that an effect may touch -/

section
variable {s t : State} {ch : Channel}

theorem TimeEffect.frame (h : TimeEffect s t) : t = { s with tb := t.tb } := by
  cases h <;> rfl

theorem AgendaEffect.frame (h : AgendaEffect s t) : t = { s with au := t.au, tu := t.tu, niu := t.niu } := by
  cases h with
  | decides => rfl
  | answers g rest => exact takeArmRequests_frame (s.withAnswers rest) g

theorem MemoryEffect.frame (h : MemoryEffect s t) : t = { s with mm := t.mm } := by
  cases h <;> rfl

theorem TransmitEffect.frame (h : TransmitEffect s ch t) : t = { s with ser := t.ser, mm := t.mm, niu := t.niu } := by
  cases h with
  | settles => rfl
  | goesOn t => rw [putOnLine_frame]; rfl
  | leaves body => exact headLeaves_frame ch body _
  | sends => rw [joinSend_frame]
  | breaks => rw [joinBreak_frame]
  | aborts => rfl
  | resets => exact resetTransmitter_frame ch s
  | configures => rfl

theorem ReceiveEffect.frame (h : ReceiveEffect s ch t) :
    t = { s with ser := t.ser, cu := t.cu, tu := t.tu, niu := t.niu } := by
  cases h with
  | moves => rfl
  | starts => rw [startFrame_frame]; rfl
  | takes byte wrong stopBit r => exact takeCharacter_frame ch byte wrong stopBit (s.withRx ch r)
  | ends cause r => exact endFrame_frame ch cause (s.withRx ch r)
  | breaks stamp =>
    split
    · rw [closeRecord_frame]
      rfl
    · rfl
  | abandons => rfl

theorem CaptureEffect.frame (h : CaptureEffect s t) : t = { s with cu := t.cu, tu := t.tu, niu := t.niu } := by
  cases h with
  | edges stamp edges => exact offerEdges_frame stamp s edges
  | pops => rfl
  | flushes => rfl

theorem NoticeEffect.frame (h : NoticeEffect s t) : t = { s with niu := t.niu } := by
  cases h <;> rfl

/-- A tick reaches the Time Base, and while the main domain is up the blocks that count or sample at it. -/
theorem issueTick_frame (ev : BitVec 4) (order : TickOrder) (s : State) :
    issueTick ev order s = { s with
      tb := (tickTimeBase s).tb, niu := (tickTimeBase s).niu, du := (issueTick ev order s).du,
      ser := (issueTick ev order s).ser, evi := (issueTick ev order s).evi } := by
  by_cases hup : (tickTimeBase s).mainUp
  · simp only [issueTick, whenMain_up _ _ hup]
    rw [bringTicks_frame, tickTimeBase_frame]
    rfl
  · simp only [issueTick, whenMain_down _ _ hup]
    rw [tickTimeBase_frame]

theorem takeOccurrence_bringTicks_frame (i : Fin 64) (rest : List (Fin 64)) (s : State) :
    bringTicks (takeOccurrence i rest s) = { s with
      au := (takeOccurrence i rest s).au, mm := (takeOccurrence i rest s).mm, niu := (takeOccurrence i rest s).niu,
      du := (bringTicks (takeOccurrence i rest s)).du, ser := (bringTicks (takeOccurrence i rest s)).ser } := by
  rw [bringTicks_frame, takeOccurrence_frame]

/-- No effect touches the supplies, the bus reads or the commands that wait. -/
theorem Effect.power_pending (h : Effect s t) : t.power = s.power ∧ t.pending = s.pending := by
  cases h with
  | quiet | lineWrite | detaches | resets | watchAfresh => exact ⟨rfl, rfl⟩
  | time h => rw [h.frame]; exact ⟨rfl, rfl⟩
  | tick ev order => rw [issueTick_frame]; exact ⟨rfl, rfl⟩
  | pulseEnd => rw [pulseEnded_frame]; exact ⟨rfl, rfl⟩
  | agenda h => rw [h.frame]; exact ⟨rfl, rfl⟩
  | occurrence i rest => rw [takeOccurrence_bringTicks_frame]; exact ⟨rfl, rfl⟩
  | memory h => rw [h.frame]; exact ⟨rfl, rfl⟩
  | transmit ch h => rw [h.frame]; exact ⟨rfl, rfl⟩
  | receive ch h => rw [h.frame]; exact ⟨rfl, rfl⟩
  | capture h => rw [h.frame]; exact ⟨rfl, rfl⟩
  | notices h => rw [h.frame]; exact ⟨rfl, rfl⟩

end

/-! ## The rows of the supplies and RESET_N -/

section
variable (s : State)

theorem exec_coldStart (supply : Supply) (n : Nat) : exec (.coldStart supply n) s = .next (s.powerLost State.reset.tb
    { vmainGood := decide (supply = .vmain), backupHeld := true, resetHigh := s.power.resetHigh, skipCycles := n }) := rfl

theorem exec_mainPowerUp (n : Nat) :
    exec (.mainPowerUp n) s = .next (s.powerLost (if s.power.backupHeld then s.tb else State.reset.tb)
      { vmainGood := true, backupHeld := true, resetHigh := s.power.resetHigh, skipCycles := n }) := by
  simp only [exec, execMainPowerUp]
  split <;> rfl

theorem exec_vmainFall (h : s.power.vmainGood = true) (held : Bool) :
    exec (.vmainFall held) s = .next (s.powerLost (if held then s.tb else State.reset.tb)
      { vmainGood := false, backupHeld := held, resetHigh := s.power.resetHigh, skipCycles := 0 }) := by
  simp only [exec, execVmainFall, if_pos h]
  split <;> rfl

theorem exec_backupDomainLoss (h : s.power.vmainGood = false) : exec .backupDomainLoss s =
    .next { s with tb := State.reset.tb, power := { s.power with backupHeld := false } } :=
  if_neg (by simp [h])

/-- Settles O5: one lemma for each of the six rows. -/
theorem suppliesAndResetPin : Obligations.SuppliesAndResetPin := fun s =>
  ⟨exec_coldStart s, exec_mainPowerUp s, fun held h => exec_vmainFall s h held, exec_backupDomainLoss s,
    exec_resetNAssert s, fun n h => exec_resetNRelease_low h n⟩

end

/-- What a row of the supplies or RESET_N does: the main domain without power in between, its reset with the store kept, or
nothing to its blocks. -/
inductive SupplyEffect (s : State) : State → Prop
  | powerLost (tb : TimeBase) (power : Power) (htb : tb = s.tb ∨ tb = State.reset.tb)
      (hpower : power.vmainGood = true → power.backupHeld = true) : SupplyEffect s (s.powerLost tb power)
  | mainReset : SupplyEffect s (s.mainReset { s.power with resetHigh := false, skipCycles := 0 })
  | releases (n : Nat) : SupplyEffect s { s with power := { s.power with resetHigh := true, skipCycles := n } }
  | backupLost (h : s.power.vmainGood = false) :
      SupplyEffect s { s with tb := State.reset.tb, power := { s.power with backupHeld := false } }
  | nothing : SupplyEffect s s

theorem exec_supplyRow {c : Instr} (h : supplyRow c = true) (s : State) : ∃ t, exec c s = .next t ∧ SupplyEffect s t := by
  cases c with
  | coldStart supply n => exact ⟨_, exec_coldStart s supply n, .powerLost _ _ (.inr rfl) fun _ => rfl⟩
  | mainPowerUp n =>
    refine ⟨_, exec_mainPowerUp s n, .powerLost _ _ ?_ fun _ => rfl⟩
    split <;> simp
  | vmainFall held =>
    by_cases hgood : s.power.vmainGood = true
    · refine ⟨_, exec_vmainFall s hgood held, .powerLost _ _ ?_ (by simp)⟩
      split <;> simp
    · exact ⟨_, if_neg hgood, .nothing⟩
  | resetNAssert => exact ⟨_, exec_resetNAssert s, .mainReset⟩
  | resetNRelease n =>
    by_cases hhigh : s.power.resetHigh = true
    · exact ⟨_, if_pos hhigh, .nothing⟩
    · exact ⟨_, if_neg hhigh, .releases n⟩
  | backupDomainLoss =>
    by_cases hgood : s.power.vmainGood = true
    · exact ⟨_, if_pos hgood, .nothing⟩
    · exact ⟨_, if_neg hgood, .backupLost (Bool.not_eq_true _ ▸ hgood)⟩
  | _ => simp [supplyRow] at h

theorem SupplyEffect.pending {s t : State} (h : SupplyEffect s t) : t.pending = s.pending := by
  cases h <;> rfl

/-- Settles O3: a row of the supplies and every other one answer a state, and no effect touches the queue. -/
theorem everyCommandAnswersNext : Obligations.EveryCommandAnswersNext := by
  intro c s
  cases hsupply : supplyRow c with
  | true =>
    obtain ⟨t, ht, heffect⟩ := exec_supplyRow hsupply s
    exact ⟨t, ht, heffect.pending⟩
  | false =>
    obtain ⟨t, ht, u, v, hu, heffect, hv⟩ := exec_affects hsupply s
    exact ⟨t, ht, hv.pending.trans (heffect.power_pending.2.trans hu.pending)⟩

end Sys2Proof.Machine
end

section
/-! SUPPORT. The cases of a row and of a step, and what follows for the time count (R2, R4) and for the messages in use (R87). -/

namespace Sys2Proof.Machine

/-! ## Rows and steps by their effects -/

theorem exec_cases {c : Instr} {s t : State} (h : exec c s = .next t) : SupplyEffect s t ∨ s.affects t := by
  cases hsupply : supplyRow c with
  | true =>
    obtain ⟨t', ht, heffect⟩ := exec_supplyRow hsupply s
    obtain rfl : t' = t := Host.Outcome.next.inj (ht.symm.trans h)
    exact .inl heffect
  | false =>
    obtain ⟨t', ht, heffect⟩ := exec_affects hsupply s
    obtain rfl : t' = t := Host.Outcome.next.inj (ht.symm.trans h)
    exact .inr heffect

/-- What every effect keeps, and what says nothing of the queue of commands, every step keeps. -/
theorem step_keeps {P : State → Prop} (hpending : ∀ (s : State) (rest : List Instr), P s → P { s with pending := rest })
    (halike : ∀ {s t : State}, s.alike t → P s → P t) (hsupply : ∀ {s t : State}, SupplyEffect s t → P s → P t)
    (heffect : ∀ {s t : State}, Effect s t → P s → P t) {s t : State} (hs : P s) (h : step s = .next t) : P t := by
  have haffects : ∀ {s t : State}, s.affects t → P s → P t := fun ⟨_, _, hu, he, hv⟩ hs =>
    halike hv (heffect he (halike hu hs))
  unfold step at h
  split at h
  · obtain rfl := Host.Outcome.next.inj h
    exact haffects (oscillatorPeriod_affects s) hs
  · obtain hrow | hrow := exec_cases h
    · exact hsupply hrow (hpending s _ hs)
    · exact haffects hrow (hpending s _ hs)

/-! ## The time count -/

/-- The count stays or rises by one, or the generation rises by one (R2, R4). -/
def TimeBase.goesOnTo (a b : TimeBase) : Prop :=
  b.generation = a.generation ∧ a.count ≤ b.count ∧ b.count ≤ a.count + 1 ∨ b.generation = a.generation + 1

theorem TimeBase.goesOnTo_of_eq {a b : TimeBase} (h : b = a) : a.goesOnTo b := .inl (by simp [h])

theorem tickTimeBase_goesOnTo (s : State) : s.tb.goesOnTo (tickTimeBase s).tb := by
  unfold tickTimeBase
  dsimp only
  split
  · exact .inl ⟨rfl, Nat.le_refl _, Nat.le_succ _⟩
  · split_ifs
    · exact .inl ⟨rfl, Nat.le_refl _, Nat.le_succ _⟩
    · exact .inl ⟨rfl, Nat.le_refl _, Nat.le_succ _⟩
    · exact .inl ⟨rfl, Nat.le_succ _, Nat.le_refl _⟩

theorem Effect.goesOnTo {s t : State} (h : Effect s t) : s.tb.goesOnTo t.tb := by
  cases h with
  | quiet | lineWrite | detaches | resets | watchAfresh => exact TimeBase.goesOnTo_of_eq rfl
  | time h =>
    cases h with
    | sets => exact .inr rfl
    | runs => exact .inl ⟨rfl, Nat.le_refl _, Nat.le_succ _⟩
    | passes => exact .inl ⟨rfl, Nat.le_refl _, Nat.le_succ _⟩
  | tick ev order =>
    rw [issueTick_frame]
    exact tickTimeBase_goesOnTo s
  | pulseEnd => exact TimeBase.goesOnTo_of_eq (by rw [pulseEnded_frame])
  | agenda h => exact TimeBase.goesOnTo_of_eq (by rw [h.frame])
  | occurrence i rest => exact TimeBase.goesOnTo_of_eq (by rw [takeOccurrence_bringTicks_frame])
  | memory h => exact TimeBase.goesOnTo_of_eq (by rw [h.frame])
  | transmit ch h => exact TimeBase.goesOnTo_of_eq (by rw [h.frame])
  | receive ch h => exact TimeBase.goesOnTo_of_eq (by rw [h.frame])
  | capture h => exact TimeBase.goesOnTo_of_eq (by rw [h.frame])
  | notices h => exact TimeBase.goesOnTo_of_eq (by rw [h.frame])

/-- Settles O13: a row of the supplies leaves the Time Base or takes it to its cold-start values, and every other row's effect
takes the count on, or raises the generation. -/
theorem timeGoesBackOnlyWithANewGeneration : Obligations.TimeGoesBackOnlyWithANewGeneration := by
  intro c s t h
  obtain hrow | ⟨u, v, hu, heffect, hv⟩ := exec_cases h
  · have htb : t.tb = s.tb ∨ t.tb = State.reset.tb := by
      cases hrow with
      | powerLost tb power htb => exact htb
      | mainReset | releases | nothing => exact .inl rfl
      | backupLost => exact .inr rfl
    exact htb.imp (fun htb => by simp [htb]) .inr
  · have hgoes := heffect.goesOnTo
    rw [TimeBase.goesOnTo, hu.generation, hu.count, ← hv.generation, ← hv.count] at hgoes
    exact hgoes.imp id .inl

/-! ## The descriptors but for their busy counts -/

/-- The Message Memory is the same but for the busy counts of its descriptors. -/
def MessageMemory.sameButBusy (mm mm' : MessageMemory) : Prop :=
  mm' = { mm with directory := mm'.directory } ∧
    ∀ m : Fin 32, mm'.directory[m] = { mm.directory[m] with busy := mm'.directory[m].busy }

namespace MessageMemory.sameButBusy
variable {mm mm' mm'' : MessageMemory}

theorem refl (mm : MessageMemory) : mm.sameButBusy mm := ⟨rfl, fun _ => rfl⟩

theorem of_eq (h : mm' = mm) : mm.sameButBusy mm' := h ▸ refl mm

theorem trans (h : mm.sameButBusy mm') (h' : mm'.sameButBusy mm'') : mm.sameButBusy mm'' :=
  ⟨by rw [h'.1, h.1], fun m => by rw [h'.2 m, h.2 m]⟩

theorem set_busy (mm : MessageMemory) (m : Fin 32) (busy : Nat) :
    mm.sameButBusy { mm with directory := mm.directory.set m { mm.directory[m] with busy := busy } } := by
  refine ⟨rfl, fun j => ?_⟩
  by_cases hj : m = j
  · subst hj
    simp
  · have hval : (m : Nat) ≠ j := fun e => hj (Fin.ext e)
    simp [hval]

theorem claimMessage (m : Fin 32) : mm.sameButBusy (claimMessage m mm) := set_busy mm m _

theorem releaseMessage (m : Fin 32) : mm.sameButBusy (releaseMessage m mm) := set_busy mm m _

end MessageMemory.sameButBusy

/-- The Message Memory once a request has left its queue (R86). -/
def releaseRequest (mm : MessageMemory) : Request → MessageMemory
  | .send m _ _ => releaseMessage m mm
  | .brk _ => mm

theorem requestLeaves_mm (r : Request) (body : Fin 32 → Source → NoticeBody) (s : State) :
    (requestLeaves r body s).mm = releaseRequest s.mm r := by
  cases r <;> simp [requestLeaves, releaseRequest]

theorem requestsLeave_mm (rs : List Request) (body : Fin 32 → Source → NoticeBody) (s : State) :
    (rs.foldl (fun s r => requestLeaves r body s) s).mm = rs.foldl releaseRequest s.mm := by
  induction rs generalizing s with
  | nil => rfl
  | cons r rs ih => rw [List.foldl_cons, ih, requestLeaves_mm, List.foldl_cons]

theorem releaseRequest_sameButBusy (mm : MessageMemory) (r : Request) : mm.sameButBusy (releaseRequest mm r) := by
  cases r with
  | send m => exact .releaseMessage m
  | brk => exact .refl mm

theorem releaseRequests_sameButBusy (rs : List Request) (mm : MessageMemory) : mm.sameButBusy (rs.foldl releaseRequest mm) := by
  induction rs generalizing mm with
  | nil => exact .refl mm
  | cons r rs ih => exact (releaseRequest_sameButBusy mm r).trans (ih _)

/-- The message of a request at the head is released as the head leaves. -/
theorem headLeaves_mm (ch : Channel) (body : Fin 32 → Source → NoticeBody) (s : State) :
    (headLeaves ch body s).mm = (s.tx ch).queue.head?.elim s.mm (releaseRequest s.mm) := by
  cases hqueue : (s.tx ch).queue with
  | nil => simp [headLeaves, hqueue]
  | cons r rest => simp [headLeaves, hqueue, requestLeaves_mm]

theorem resetTransmitter_mm (ch : Channel) (s : State) :
    (resetTransmitter ch s).mm = ((s.tx ch).queue.drop 1).foldl releaseRequest s.mm := by
  rw [resetTransmitter, requestsLeave_mm]
  rfl

theorem TransmitEffect.sameButBusy {s t : State} {ch : Channel} (h : TransmitEffect s ch t) : s.mm.sameButBusy t.mm := by
  cases h with
  | settles | aborts | configures => exact .refl _
  | goesOn | breaks => exact .of_eq (by simp)
  | leaves body =>
    rw [headLeaves_mm]
    cases ((s.withTx ch (s.tx ch).settle).tx ch).queue.head? with
    | none => exact .refl _
    | some r => exact releaseRequest_sameButBusy _ r
  | sends m => exact .claimMessage m
  | resets =>
    rw [resetTransmitter_mm]
    exact releaseRequests_sameButBusy _ _

/-! ## Occurrences -/

/-- An occurrence claims a message where it hands out a SEND, and else leaves the messages. -/
theorem takeOccurrence_mm (i : Fin 64) (rest : List (Fin 64)) (s : State) :
    (takeOccurrence i rest s).mm = s.mm ∨ ∃ m, (takeOccurrence i rest s).mm = claimMessage m s.mm := by
  unfold takeOccurrence
  dsimp only
  split_ifs
  · rw [(performOccurrence_ser_mm _ i _).2]
    cases hm : s.au.slots[i].entry.message with
    | none => exact .inl (handedOut_sends_nothing _ i _ (.inl hm)).2
    | some m =>
      by_cases hsent : s.au.slots[i].entry.sendRefused { s with au := { s.au with dueList := rest } } = none
      · exact .inr ⟨m, (handedOut_sends _ i _ hm hsent).2⟩
      · exact .inl (handedOut_sends_nothing _ i _ (.inr hsent)).2
  · rw [missOccurrence_mm]
    exact .inl rfl

theorem takeOccurrence_sameButBusy (i : Fin 64) (rest : List (Fin 64)) (s : State) :
    s.mm.sameButBusy (takeOccurrence i rest s).mm := by
  obtain heq | ⟨m, heq⟩ := takeOccurrence_mm i rest s
  · exact .of_eq heq
  · rw [heq]
    exact .claimMessage m

/-! ## Messages in use -/

theorem sameMessage_of_sameButBusy {s t : State} (h : s.mm.sameButBusy t.mm) (m : Fin 32) : s.sameMessage t m := by
  refine ⟨by rw [h.2 m], by rw [h.2 m], fun i _ => ?_⟩
  rw [storeByte, h.1]
  rfl

theorem busyAt_of_covers {mm : MessageMemory} {m : Fin 32} {i : Nat} (hbusy : 0 < mm.directory[m].busy)
    (hcovers : mm.directory[m].covers i = true) : busyAt mm i = true :=
  (busyAt_iff mm i).2 ⟨m, hbusy, (Descriptor.covers_iff _ i).1 hcovers⟩

theorem MemoryEffect.sameMessage {s t : State} (h : MemoryEffect s t) {m : Fin 32} (hm : 0 < s.mm.directory[m].busy) :
    s.sameMessage t m := by
  cases h with
  | writes i byte hi hfree =>
    refine ⟨rfl, rfl, fun j hj => storeByte_write_other s.mm i j byte fun e => ?_⟩
    rw [← e, busyAt_of_covers hm hj] at hfree
    exact Bool.noConfusion hfree
  | describes j defined offset length hbusy =>
    have hne : (j : Nat) ≠ m := fun e => by
      obtain rfl := Fin.ext e
      omega
    refine ⟨?_, ?_, fun _ _ => rfl⟩ <;> simp [hne]

theorem Effect.sameMessage {s t : State} (h : Effect s t) {m : Fin 32} (hm : 0 < s.mm.directory[m].busy) :
    s.sameMessage t m := by
  cases h with
  | quiet | lineWrite | detaches | watchAfresh => exact sameMessage_of_sameButBusy (.refl _) m
  | memory h => exact h.sameMessage hm
  | time h => exact sameMessage_of_sameButBusy (.of_eq (by rw [h.frame])) m
  | tick ev order => exact sameMessage_of_sameButBusy (.of_eq (by rw [issueTick_frame])) m
  | pulseEnd => exact sameMessage_of_sameButBusy (.of_eq (by rw [pulseEnded_frame])) m
  | agenda h => exact sameMessage_of_sameButBusy (.of_eq (by rw [h.frame])) m
  | occurrence i rest =>
    refine sameMessage_of_sameButBusy ?_ m
    rw [takeOccurrence_bringTicks_frame]
    exact takeOccurrence_sameButBusy i rest s
  | transmit ch h => exact sameMessage_of_sameButBusy h.sameButBusy m
  | receive ch h => exact sameMessage_of_sameButBusy (.of_eq (by rw [h.frame])) m
  | capture h => exact sameMessage_of_sameButBusy (.of_eq (by rw [h.frame])) m
  | notices h => exact sameMessage_of_sameButBusy (.of_eq (by rw [h.frame])) m
  | resets => exact ⟨by simp [resetKeepingStore, resetMain, MessageMemory.kept],
      by simp [resetKeepingStore, resetMain, MessageMemory.kept], fun _ _ => rfl⟩

theorem sameMessage_alike {s t u v : State} {m : Fin 32} (hu : s.alike u) (hv : v.alike t) (h : u.sameMessage v m) :
    s.sameMessage t m := by
  have hbyte : ∀ {x y : State}, x.alike y → ∀ i, storeByte y.mm i = storeByte x.mm i := fun hxy i => by
    rw [storeByte, storeByte, hxy.store, hxy.epoch]
  obtain ⟨hoffset, hlength, hbytes⟩ := h
  rw [hu.directory] at hoffset hlength hbytes
  refine ⟨?_, ?_, fun i hi => ?_⟩
  · rw [hv.directory]
    exact hoffset
  · rw [hv.directory]
    exact hlength
  · rw [hbyte hv, hbytes i hi, hbyte hu]

theorem mainReset_sameMessage (s : State) (power : Power) (m : Fin 32) : s.sameMessage (s.mainReset power) m :=
  ⟨by rw [mainReset_directory], by rw [mainReset_directory], fun _ _ => rfl⟩

/-- Settles O30: of the rows of the supplies those named lose the store and RESET_N keeps it; of the others only a description
and a write change what a message is, and neither touches one in use. -/
theorem busyMessageStaysAsQueued : Obligations.BusyMessageStaysAsQueued := by
  intro c s t m hcold hpower hfall hbusy h
  cases hsupply : supplyRow c with
  | true =>
    cases c with
    | coldStart supply n => exact absurd rfl (hcold supply n)
    | mainPowerUp n => exact absurd rfl (hpower n)
    | vmainFall held => exact absurd rfl (hfall held)
    | resetNAssert =>
      obtain rfl := Host.Outcome.next.inj h
      exact mainReset_sameMessage s _ m
    | resetNRelease n =>
      have hmm : t.mm = s.mm := by
        simp only [exec, execResetNRelease] at h
        split at h <;> (obtain rfl := Host.Outcome.next.inj h; rfl)
      exact sameMessage_of_sameButBusy (.of_eq hmm) m
    | backupDomainLoss =>
      have hmm : t.mm = s.mm := by
        simp only [exec, execBackupDomainLoss] at h
        split at h <;> (obtain rfl := Host.Outcome.next.inj h; rfl)
      exact sameMessage_of_sameButBusy (.of_eq hmm) m
    | _ => simp [supplyRow] at hsupply
  | false =>
    obtain ⟨t', ht, u, v, hu, heffect, hv⟩ := exec_affects hsupply s
    obtain rfl : t' = t := Host.Outcome.next.inj (ht.symm.trans h)
    exact sameMessage_alike hu hv (heffect.sameMessage (by rwa [hu.directory]))

end Sys2Proof.Machine
end

section
/-! SUPPORT. The agenda's invariant (R20, R22, R24, R29, R39 to R41): slot by slot, with a slot taken off the due list and put
back. -/

namespace Sys2Proof.Machine

/-! ## A sound slot and a sound agenda -/

/-- What a slot's own record must be, by its state: ARMED or HELD it may be armed, FREE it is the FREE image, the spent reason is
present in SPENT alone, and it does not chain to itself. -/
structure SlotSound (i : Fin 64) (x : Slot) : Prop where
  armable : x.state = .armed ∨ x.state = .held → x.entry.armable
  freed : x.state = .free → x.entry = Entry.freeImage
  spent : x.state = .spent ↔ x.entry.spent.isSome = true
  unchained : x.entry.chainTarget ≠ some i

/-- Every arm request on its way is within END (R61). -/
def RequestsSound (tu : Triggers) : Prop := ∀ g ∈ tu.answers, ∀ q ∈ g, q.due ≤ Config.endTime

/-- The part of the agenda's invariant that is about the Agenda Unit. -/
structure SlotsSound (au : Agenda) : Prop where
  list : DueListSound au
  slot : ∀ i : Fin 64, SlotSound i au.slots[i]

theorem agendaSound_iff (s : State) : AgendaSound s ↔ SlotsSound s.au ∧ RequestsSound s.tu := by
  constructor
  · intro h
    exact ⟨⟨h.dueListSound, fun i => ⟨Or.rec (h.armed i) (h.held i), h.freed i, h.spent i, h.unchained i⟩⟩, h.requests⟩
  · intro ⟨hslots, hrequests⟩
    exact ⟨hslots.list.ordered, hslots.list.listed, fun i hi => (hslots.slot i).armable (.inl hi),
      fun i hi => (hslots.slot i).armable (.inr hi), fun i => (hslots.slot i).freed, fun i => (hslots.slot i).spent,
      fun i => (hslots.slot i).unchained, hrequests⟩

theorem SlotsSound.congr {au au' : Agenda} (h : SlotsSound au) (hslots : au'.slots = au.slots) (hlist : au'.dueList = au.dueList) :
    SlotsSound au' := by
  obtain ⟨⟨hordered, hlisted⟩, hslot⟩ := h
  rw [← hslots] at hordered hlisted hslot
  rw [← hlist] at hordered hlisted
  exact ⟨⟨hordered, hlisted⟩, hslot⟩

/-! ## One slot off the list -/

/-- The agenda is sound but for slot `i`, which is not on the due list, whatever its record. -/
structure SoundBut (i : Fin 64) (au : Agenda) : Prop where
  ordered : au.dueList.Pairwise (DueBefore au.slots)
  off : i ∉ au.dueList
  listed : ∀ j : Fin 64, j ≠ i → (j ∈ au.dueList ↔ au.slots[j].state = .armed)
  slot : ∀ j : Fin 64, j ≠ i → SlotSound j au.slots[j]

section
variable {i : Fin 64} {au : Agenda}

theorem SlotsSound.but (h : SlotsSound au) (hi : au.slots[i].state ≠ .armed) : SoundBut i au :=
  ⟨h.list.ordered, mt (h.list.listed i).1 hi, fun j _ => h.list.listed j, fun j _ => h.slot j⟩

/-- A slot taken off a sound agenda's list. -/
theorem SlotsSound.but_of_filter (h : SlotsSound au) : SoundBut i { au with dueList := au.dueList.filter fun j => j != i } :=
  ⟨h.list.ordered.filter _, by simp, fun j hj => by simp [h.list.listed j, hj], fun j _ => h.slot j⟩

theorem SlotsSound.head_filter {rest : List (Fin 64)} (h : SlotsSound au) (hlist : au.dueList = i :: rest) :
    (au.dueList.filter fun j => j != i) = rest := by
  have hordered := h.list.ordered
  rw [hlist, List.pairwise_cons] at hordered
  rw [hlist, List.filter_cons_of_neg (by simp), List.filter_eq_self]
  intro j hj
  have hne : j ≠ i := fun e => by
    have hbefore := hordered.1 j hj
    rw [e] at hbefore
    simp [DueBefore] at hbefore
  simpa using hne

/-- The head, taken off a sound agenda's list as its occurrence is taken. -/
theorem SlotsSound.but_of_head {rest : List (Fin 64)} (h : SlotsSound au) (hlist : au.dueList = i :: rest) :
    SoundBut i { au with dueList := rest } := by
  rw [← h.head_filter hlist]
  exact h.but_of_filter

theorem SoundBut.set (h : SoundBut i au) (x : Slot) : SoundBut i { au with slots := au.slots.set i x } := by
  have hkept : ∀ j : Fin 64, j ≠ i → (au.slots.set i x)[j] = au.slots[j] := fun j hj => putSlot_slots_other hj x au
  refine ⟨pairwise_dueBefore_congr (fun j hj => hkept j (ne_of_mem_of_not_mem hj h.off)) h.ordered, h.off, fun j hj => ?_,
    fun j hj => ?_⟩
  · rw [h.listed j hj]
    exact iff_of_eq (by rw [hkept j hj])
  · rw [hkept j hj]
    exact h.slot j hj

/-- A slot that is not ARMED and sound in itself completes the agenda. -/
theorem SoundBut.put (h : SoundBut i au) {x : Slot} (hx : SlotSound i x) (hstate : x.state ≠ .armed) :
    SlotsSound (putSlot i x au) := by
  have hset := h.set x
  have hself : (putSlot i x au).slots[i] = x := Vector.getElem_set_self i.isLt
  refine ⟨⟨hset.ordered, fun j => ?_⟩, fun j => ?_⟩
  · by_cases hj : j = i
    · subst hj
      rw [hself]
      exact iff_of_false h.off hstate
    · exact hset.listed j hj
  · by_cases hj : j = i
    · subst hj
      rw [hself]
      exact hx
    · exact hset.slot j hj

/-- A slot armed at a due time completes the agenda where the record it then holds is sound (R40, R43). -/
theorem SoundBut.arm (h : SoundBut i au) {due : Nat}
    (hx : SlotSound i { state := .armed, entry := { au.slots[i].entry with due := due } }) : SlotsSound (armSlot i due au) := by
  refine ⟨⟨armSlot_ordered h.off h.ordered due, fun j => ?_⟩, fun j => ?_⟩
  · rw [mem_armSlot]
    by_cases hj : j = i
    · subst hj
      simp
    · rw [armSlot_slots_other hj, ← h.listed j hj]
      simp [hj]
  · by_cases hj : j = i
    · subst hj
      rw [armSlot_slots_same]
      exact hx
    · rw [armSlot_slots_other hj]
      exact h.slot j hj

/-- A HELD slot's record with a new due time within END is one of an ARMED slot (R40). -/
theorem SlotSound.arm {x : Slot} (h : SlotSound i x) (hheld : x.state = .held) {due : Nat} (hdue : due ≤ Config.endTime) :
    SlotSound i { state := .armed, entry := { x.entry with due := due } } := by
  have hspent : x.entry.spent.isSome ≠ true := mt h.spent.2 (by simp [hheld])
  exact ⟨fun _ => ⟨hdue, (h.armable (.inr hheld)).2⟩, by simp, by simpa using hspent, h.unchained⟩

/-- Another slot that is HELD is armed, with slot `i` off the list (R53). -/
theorem SoundBut.arm_other (h : SoundBut i au) {c : Fin 64} (hc : c ≠ i) (hheld : au.slots[c].state = .held) {due : Nat}
    (hdue : due ≤ Config.endTime) : SoundBut i (armSlot c due au) := by
  have hoff : c ∉ au.dueList := mt (h.listed c hc).1 (ne_of_eq_of_ne hheld (by decide))
  refine ⟨armSlot_ordered hoff h.ordered due, ?_, fun j hj => ?_, fun j hj => ?_⟩
  · rw [mem_armSlot]
    exact not_or.2 ⟨hc.symm, h.off⟩
  · rw [mem_armSlot]
    by_cases hjc : j = c
    · subst hjc
      simp
    · rw [armSlot_slots_other hjc, ← h.listed j hj]
      simp [hjc]
  · by_cases hjc : j = c
    · subst hjc
      rw [armSlot_slots_same]
      exact (h.slot j hj).arm hheld hdue
    · rw [armSlot_slots_other hjc]
      exact h.slot j hj

theorem SlotsSound.arm (h : SlotsSound au) (hheld : au.slots[i].state = .held) {due : Nat} (hdue : due ≤ Config.endTime) :
    SlotsSound (armSlot i due au) :=
  (h.but (ne_of_eq_of_ne hheld (by decide))).arm ((h.slot i).arm hheld hdue)

end

/-! ## The agenda commands (R29, R34, R41, R42, R44) -/

theorem freed_slotSound (i : Fin 64) : SlotSound i Slot.freed :=
  ⟨by simp [Slot.freed], fun _ => rfl, by simp [Slot.freed, Entry.freeImage], by simp [Slot.freed, Entry.freeImage]⟩

theorem allFreed_slotsSound (au : Agenda) : SlotsSound { au with slots := Vector.replicate 64 Slot.freed, dueList := [] } :=
  ⟨⟨List.Pairwise.nil, fun i => by simp [Slot.freed]⟩, fun i => by
    rw [show (Vector.replicate 64 Slot.freed)[i] = Slot.freed from Vector.getElem_replicate i.isLt]
    exact freed_slotSound i⟩

section
variable {au : Agenda} (h : SlotsSound au) (i : Fin 64)
include h

theorem decideLoad_slotsSound (st : Vector Byte 28) : SlotsSound (decideLoad i st au).1 := by
  unfold decideLoad
  split
  · exact h
  · split
    · split_ifs with hchain hdue hstate
      · exact h
      · exact h
      · exact h
      · refine (h.but hstate).put ⟨fun _ => ⟨Nat.not_lt.1 hdue, fun hrepeats => ?_⟩, by simp, by simp [stagedEntry], hchain⟩
          (by simp)
        exact Nat.one_le_iff_ne_zero.2 hrepeats
    · exact h

theorem decideRelease_slotsSound : SlotsSound (decideRelease i au).1 := by
  unfold decideRelease
  split_ifs with hstate
  · exact h
  · exact (h.but hstate).put (freed_slotSound i) (by simp [Slot.freed])

theorem decideArmAt_slotsSound : SlotsSound (decideArmAt i au).1 := by
  unfold decideArmAt
  split_ifs with hheld
  · exact h.arm hheld ((h.slot i).armable (.inr hheld)).1
  · exact h

theorem decideArmIn_slotsSound (st : Vector Byte 28) (count : Nat) : SlotsSound (decideArmIn i st count au).1 := by
  unfold decideArmIn
  split_ifs with hheld hend
  · exact h
  · exact h.arm hheld (Nat.not_lt.1 hend)
  · exact h

theorem decideDisarm_slotsSound : SlotsSound (decideDisarm i au).1 := by
  unfold decideDisarm
  split_ifs with harmed
  · have hslot := h.slot i
    have hspent : au.slots[i].entry.spent.isSome ≠ true := mt hslot.spent.2 (ne_of_eq_of_ne harmed (by decide))
    exact h.but_of_filter.put (x := { au.slots[i] with state := .held })
      ⟨fun _ => hslot.armable (.inl harmed), by simp, by simpa using hspent, hslot.unchained⟩ (by simp)
  · exact h

theorem decideAgenda_slotsSound (f : InFlight) (count : Nat) : SlotsSound (decideAgenda f count au).1 := by
  unfold decideAgenda
  split
  · exact allFreed_slotsSound au
  · split
    · exact h
    · rename_i i _
      split
      · exact decideLoad_slotsSound h i _
      · exact h.congr rfl rfl
      · exact decideRelease_slotsSound h i
      · exact decideArmAt_slotsSound h i
      · exact decideArmIn_slotsSound h i _ count
      · exact decideDisarm_slotsSound h i
      · exact decideDisarm_slotsSound h i

end

/-! ## Arm requests (R61) -/

theorem takeArmRequest_slotsSound {s : State} (h : SlotsSound s.au) {q : ArmRequest} (hdue : q.due ≤ Config.endTime) :
    SlotsSound (takeArmRequest s q).au := by
  by_cases hheld : s.au.slots[q.slot].state = .held
  · rw [takeArmRequest_of_held hheld]
    exact h.arm hheld hdue
  · rw [takeArmRequest_of_not_held hheld, triggerMiss_au]
    exact h

theorem takeArmRequests_slotsSound {s : State} (h : SlotsSound s.au) {g : List ArmRequest}
    (hdue : ∀ q ∈ g, q.due ≤ Config.endTime) : SlotsSound (g.foldl takeArmRequest s).au := by
  induction g generalizing s with
  | nil => exact h
  | cons q g ih =>
    obtain ⟨hq, hg⟩ := List.forall_mem_cons.1 hdue
    exact ih (takeArmRequest_slotsSound h hq) hg

/-! ## Occurrences (R53, R56 to R58) -/

section
variable {e : Entry} {consumed next : Nat}

theorem advance_oneShot (hperiod : e.period = 0) : advance e consumed next = (e, some .oneShot) := if_pos hperiod

theorem advance_repeatDone (hperiod : e.period ≠ 0) (hlast : e.repeats ≠ 0 ∧ e.remaining ≤ consumed) :
    advance e consumed next = ({ e with remaining := 0 }, some .repeatDone) := by
  rw [advance, if_neg hperiod, if_pos hlast]

/-- What remains of an entry's occurrences where it goes on: with repeat 0 they are not counted. -/
def Entry.left (e : Entry) (consumed : Nat) : Nat := if e.repeats = 0 then e.remaining else e.remaining - consumed

theorem counted_eq (e : Entry) (consumed : Nat) :
    (if e.repeats = 0 then e else { e with remaining := e.remaining - consumed }) = { e with remaining := e.left consumed } := by
  unfold Entry.left
  split_ifs <;> rfl

theorem advance_next (hperiod : e.period ≠ 0) (hmore : ¬ (e.repeats ≠ 0 ∧ e.remaining ≤ consumed))
    (hend : next ≤ Config.endTime) :
    advance e consumed next = ({ e with due := next, remaining := e.left consumed }, none) := by
  rw [advance, if_neg hperiod, if_neg hmore, counted_eq]
  exact if_pos hend

theorem advance_endOfRange (hperiod : e.period ≠ 0) (hmore : ¬ (e.repeats ≠ 0 ∧ e.remaining ≤ consumed))
    (hend : Config.endTime < next) :
    advance e consumed next = ({ e with remaining := e.left consumed }, some .endOfRange) := by
  rw [advance, if_neg hperiod, if_neg hmore, counted_eq]
  exact if_neg (Nat.not_le.2 hend)

/-- An entry that has consumed occurrences either ends, or has an occurrence left at its next due time, which is within END. -/
theorem advance_cases (e : Entry) (consumed next : Nat) :
    (∃ remaining reason, advance e consumed next = ({ e with remaining := remaining }, some reason)) ∨
    ∃ remaining, advance e consumed next = ({ e with due := next, remaining := remaining }, none) ∧ next ≤ Config.endTime ∧
      (e.repeats ≠ 0 → 1 ≤ remaining) := by
  by_cases hperiod : e.period = 0
  · exact .inl ⟨e.remaining, _, advance_oneShot hperiod⟩
  · by_cases hlast : e.repeats ≠ 0 ∧ e.remaining ≤ consumed
    · exact .inl ⟨_, _, advance_repeatDone hperiod hlast⟩
    · by_cases hend : next ≤ Config.endTime
      · refine .inr ⟨_, advance_next hperiod hlast hend, hend, fun hrepeats => ?_⟩
        rw [Entry.left, if_neg hrepeats]
        have hleft : consumed < e.remaining := Nat.lt_of_not_le fun hle => hlast ⟨hrepeats, hle⟩
        omega
      · exact .inl ⟨_, _, advance_endOfRange hperiod hlast (Nat.lt_of_not_le hend)⟩

end

theorem settleOccurrence_au_of_spent {i : Fin 64} {onSpent : Bool} {a : Entry × Option SpentReason} {reason : SpentReason}
    (ha : a.2 = some reason) (s : State) : (settleOccurrence i onSpent a s).au =
      putSlot i { state := .spent, entry := { a.1 with spent := some reason } } s.au := by
  simp [settleOccurrence, ha]

theorem settleOccurrence_au_of_armed {i : Fin 64} {onSpent : Bool} {a : Entry × Option SpentReason} (ha : a.2 = none)
    (s : State) : (settleOccurrence i onSpent a s).au =
      armSlot i a.1.due { s.au with slots := s.au.slots.set i { state := .armed, entry := a.1 } } := by
  simp [settleOccurrence, ha]

/-- The entry of an occurrence, armed before it, goes back to its slot advanced. -/
theorem settleOccurrence_slotsSound {i : Fin 64} {s : State} (h : SoundBut i s.au) {e : Entry} (hspent : e.spent = none)
    (hchain : e.chainTarget ≠ some i) (onSpent : Bool) (consumed next : Nat) :
    SlotsSound (settleOccurrence i onSpent (advance e consumed next) s).au := by
  obtain ⟨remaining, reason, hspends⟩ | ⟨remaining, hgoes, hnext, hremaining⟩ := advance_cases e consumed next
  · rw [hspends, settleOccurrence_au_of_spent rfl]
    exact h.put ⟨by simp, by simp, by simp, hchain⟩ (by simp)
  · rw [hgoes, settleOccurrence_au_of_armed rfl]
    refine (h.set _).arm ?_
    simp only [Fin.getElem_fin, Vector.getElem_set_self]
    exact ⟨fun _ => ⟨hnext, hremaining⟩, by simp, by simp [hspent], hchain⟩

/-- The chain arm of a performed occurrence arms another slot that is HELD (R53). -/
theorem handedOut_soundBut {i : Fin 64} {s : State} (h : SoundBut i s.au) {e : Entry} (hchain : e.chainTarget ≠ some i) :
    SoundBut i (s.handedOut i e).au := by
  cases htarget : e.chainTarget with
  | none =>
    rw [handedOut_arms_nothing s i e (.inl htarget)]
    exact h
  | some c =>
    cases hrefused : e.chainRefused s.au with
    | true =>
      rw [handedOut_arms_nothing s i e (.inr hrefused)]
      exact h
    | false =>
      rw [handedOut_arms s i e htarget hrefused]
      simp only [chainRefused_said, htarget] at hrefused
      have hne : c ≠ i := fun e => hchain (e ▸ htarget)
      obtain ⟨hheld, hdue⟩ : s.au.slots[c].state = .held ∧ e.due + e.chainDelay ≤ Config.endTime := by simpa using hrefused
      exact h.arm_other hne hheld hdue

theorem takeOccurrence_slotsSound {i : Fin 64} {rest : List (Fin 64)} {s : State} (h : SlotsSound s.au)
    (hlist : s.au.dueList = i :: rest) : SlotsSound (takeOccurrence i rest s).au := by
  have hbut := h.but_of_head hlist
  have harmed : s.au.slots[i].state = .armed := (h.list.listed i).1 (by simp [hlist])
  have hspent : s.au.slots[i].entry.spent = none := by
    have hnot : s.au.slots[i].entry.spent.isSome ≠ true := mt (h.slot i).spent.2 (ne_of_eq_of_ne harmed (by decide))
    simpa using hnot
  have hchain := (h.slot i).unchained
  unfold takeOccurrence
  dsimp only
  split_ifs
  · rw [performOccurrence_eq]
    refine settleOccurrence_slotsSound ?_ (by exact hspent) (by exact hchain) _ _ _
    rw [firePosted_au]
    exact handedOut_soundBut hbut hchain
  · unfold missOccurrence
    refine settleOccurrence_slotsSound ?_ (by exact hspent) (by exact hchain) _ _ _
    rw [postIf_au]
    exact hbut

/-! ## Requests that leave at the close of a record (R156, R157) -/

theorem closeRecord_requestsSound {s : State} (h : RequestsSound s.tu) (r : CaptureRecord) :
    RequestsSound (closeRecord r s).tu := by
  obtain ⟨rules, -, -, -, htu⟩ := closeRecord_closed r s
  obtain ⟨htu, -⟩ := htu _ _ rfl rfl
  rw [htu]
  refine fun g hg q hq => ?_
  obtain hold | hnew := List.mem_append.1 hg
  · exact h g hold q hq
  · split_ifs at hnew with hempty
    · simp at hnew
    · obtain rfl := List.mem_singleton.1 hnew
      obtain ⟨k, hk, rfl⟩ := List.mem_map.1 hq
      have hnone := (List.mem_filter.1 hk).2
      unfold State.missAtClose at hnone
      split_ifs at hnone with hgeneration hend
      · simp at hnone
      · simp at hnone
      · exact Nat.not_lt.1 hend

theorem closeOpened_requestsSound {s : State} (h : RequestsSound s.tu) (ch : Channel) (cause : EndCause) (flags : FrameFlags) :
    RequestsSound (closeOpened ch cause flags s).tu := by
  unfold closeOpened
  split
  · exact h
  · exact closeRecord_requestsSound (by exact h) _

theorem endFrame_requestsSound {s : State} (h : RequestsSound s.tu) (ch : Channel) (cause : EndCause) :
    RequestsSound (endFrame ch cause s).tu := by
  rw [endFrame_eq, withRx_tu]
  split_ifs
  · exact closeOpened_requestsSound h ch cause _
  · exact h

theorem takeCharacter_requestsSound {s : State} (h : RequestsSound s.tu) (ch : Channel) (byte : Byte) (wrong stopBit : Bool)
    (r : Receiver) : RequestsSound (takeCharacter ch byte wrong stopBit (s.withRx ch r)).tu := by
  have htaken : RequestsSound (s.characterTaken ch (r.counted wrong stopBit) byte).tu := by
    unfold State.characterTaken
    split_ifs <;> exact h
  rw [takeCharacter_eq]
  dsimp only
  cases (r.counted wrong stopBit).endsWith byte with
  | none => exact htaken
  | some cause => exact endFrame_requestsSound htaken ch cause

theorem ReceiveEffect.requestsSound {s t : State} {ch : Channel} (h : ReceiveEffect s ch t) (hs : RequestsSound s.tu) :
    RequestsSound t.tu := by
  cases h with
  | moves | abandons => exact hs
  | starts =>
    rw [startFrame_tu]
    exact hs
  | takes byte wrong stopBit r => exact takeCharacter_requestsSound hs ch byte wrong stopBit r
  | ends cause r => exact endFrame_requestsSound (s := s.withRx ch r) hs ch cause
  | breaks stamp =>
    rw [withRx_tu]
    split_ifs
    · exact closeRecord_requestsSound hs _
    · exact hs

theorem offerEdges_requestsSound {s : State} (h : RequestsSound s.tu) (stamp : Stamp) (edges : List (Fin 4 × EdgeDir)) :
    RequestsSound (edges.foldl (offerEdge stamp) s).tu := by
  induction edges generalizing s with
  | nil => exact h
  | cons e edges ih =>
    refine ih ?_
    unfold offerEdge
    split_ifs
    · exact closeRecord_requestsSound h _
    · exact h

theorem detachRequests_requestsSound {tu : Triggers} (h : RequestsSound tu) (k : Fin 8) : RequestsSound (detachRequests k tu) := by
  intro g hg q hq
  obtain ⟨g', hg', rfl⟩ := List.mem_map.1 hg
  obtain ⟨q', hq', rfl⟩ := List.mem_map.1 hq
  have hdue := h g' hg' q' hq'
  split_ifs <;> exact hdue

/-! ## Every step -/

theorem reset_slotsSound : SlotsSound Agenda.reset := allFreed_slotsSound Agenda.reset

theorem Effect.agendaSound {s t : State} (h : Effect s t) (hs : SlotsSound s.au ∧ RequestsSound s.tu) :
    SlotsSound t.au ∧ RequestsSound t.tu := by
  obtain ⟨hslots, hrequests⟩ := hs
  cases h with
  | quiet | lineWrite | watchAfresh => exact ⟨hslots, hrequests⟩
  | time h => rw [h.frame]; exact ⟨hslots, hrequests⟩
  | tick ev order => rw [issueTick_frame]; exact ⟨hslots, hrequests⟩
  | pulseEnd => rw [pulseEnded_frame]; exact ⟨hslots, hrequests⟩
  | agenda h =>
    cases h with
    | decides f => exact ⟨decideAgenda_slotsSound hslots f _, hrequests⟩
    | answers g rest hanswers =>
      rw [RequestsSound, hanswers, List.forall_mem_cons] at hrequests
      obtain ⟨hg, hrest⟩ := hrequests
      refine ⟨takeArmRequests_slotsSound (s := s.withAnswers rest) hslots hg, ?_⟩
      rw [(takeArmRequests_au_tu g).2]
      exact hrest
  | occurrence i rest htakes =>
    obtain ⟨-, -, hlist, -⟩ := htakes
    rw [takeOccurrence_bringTicks_frame]
    exact ⟨takeOccurrence_slotsSound hslots hlist, hrequests⟩
  | memory h => rw [h.frame]; exact ⟨hslots, hrequests⟩
  | transmit ch h => rw [h.frame]; exact ⟨hslots, hrequests⟩
  | receive ch h =>
    refine ⟨?_, h.requestsSound hrequests⟩
    rw [h.frame]
    exact hslots
  | capture h =>
    refine ⟨by rw [h.frame]; exact hslots, ?_⟩
    cases h with
    | edges stamp edges => exact offerEdges_requestsSound hrequests stamp edges
    | pops | flushes => exact hrequests
  | detaches k => exact ⟨hslots, detachRequests_requestsSound hrequests k⟩
  | notices h => rw [h.frame]; exact ⟨hslots, hrequests⟩
  | resets => exact ⟨reset_slotsSound, by simp [RequestsSound, resetKeepingStore, resetMain, Triggers.reset]⟩

theorem SupplyEffect.agendaSound {s t : State} (h : SupplyEffect s t) (hs : SlotsSound s.au ∧ RequestsSound s.tu) :
    SlotsSound t.au ∧ RequestsSound t.tu := by
  cases h with
  | powerLost | mainReset => exact ⟨reset_slotsSound, by simp [RequestsSound, State.powerLost, State.mainReset, State.reset, Triggers.reset]⟩
  | releases | backupLost | nothing => exact hs

/-- Settles O56: each effect on the slots takes a slot off the list or puts one back, sound, and each group of requests that
leaves is within END. -/
theorem everyStepKeepsAgendaSound : Obligations.EveryStepKeepsAgendaSound := by
  intro s t hs h
  rw [agendaSound_iff] at hs ⊢
  refine step_keeps (P := fun s => SlotsSound s.au ∧ RequestsSound s.tu) (fun _ _ h => h) (fun halike hs => ?_)
    SupplyEffect.agendaSound Effect.agendaSound hs h
  refine ⟨hs.1.congr halike.slots halike.dueList, ?_⟩
  rw [RequestsSound, halike.answers]
  exact hs.2

end Sys2Proof.Machine
end

section
/-! SUPPORT. The messages' invariant (R80, R85, R99, R100, R103): what each effect does to the queue of one transmitter, and to the
busy counts with it. -/

namespace Sys2Proof.Machine

/-! ## What an effect leaves of the channels -/

theorem startFrame_ser (ch : Channel) (s : State) : ∃ r, (startFrame ch s).ser = (s.withRx ch r).ser := by
  unfold startFrame
  dsimp only
  split_ifs
  · exact ⟨_, rfl⟩
  · exact ⟨_, dropFrame_ser _ _⟩

/-- The events of a receiver change nothing of the serial channels but that receiver. -/
theorem ReceiveEffect.ser {s t : State} {ch : Channel} (h : ReceiveEffect s ch t) : ∃ r, t.ser = (s.withRx ch r).ser := by
  cases h with
  | moves r => exact ⟨r, rfl⟩
  | starts r =>
    obtain ⟨x, hx⟩ := startFrame_ser ch (s.withRx ch r)
    exact ⟨x, by rw [hx, withRx_withRx]⟩
  | takes byte wrong stopBit r =>
    obtain ⟨x, -, hser⟩ := takeCharacter_ser s ch r byte wrong stopBit
    exact ⟨x, hser⟩
  | ends cause r =>
    refine ⟨r.cleared cause.leaves, ?_⟩
    rw [endFrame_ser, withRx_rx, withRx_withRx]
  | breaks stamp =>
    refine ⟨{ s.rx ch with state := .brk }, ?_⟩
    split_ifs
    · rw [closeRecord_frame]
      rfl
    · rfl
  | abandons r => exact ⟨r, rfl⟩

theorem tx_of_ser_eq {s t : State} (h : t.ser = s.ser) (ch : Channel) : t.tx ch = s.tx ch := by
  rw [State.tx, State.chan, h]
  rfl

theorem chan_of_ser_eq {s t : State} (h : t.ser = s.ser) (ch : Channel) : t.chan ch = s.chan ch := by
  rw [State.chan, h]
  rfl

theorem eq_or_eq_otherChannel (ch ch' : Channel) : ch' = ch ∨ ch' = otherChannel ch := by
  cases ch <;> cases ch' <;> simp [otherChannel]

theorem withTx_tx_ne {s : State} {ch ch' : Channel} (t : Transmitter) (h : ch' ≠ ch) : (s.withTx ch t).tx ch' = s.tx ch' := by
  obtain rfl := (eq_or_eq_otherChannel ch ch').resolve_left h
  exact withTx_tx_other s ch t

/-! ## Queues and busy counts -/

/-- The SENDs of a queue that name a message. -/
def sendsNaming (m : Fin 32) (queue : List Request) : Nat := (queue.filter (Request.names m)).length

theorem requestsFor_eq (s : State) (ch : Channel) (m : Fin 32) :
    s.requestsFor m = sendsNaming m (s.tx ch).queue + sendsNaming m (s.tx (otherChannel ch)).queue := by
  cases ch
  · rfl
  · exact Nat.add_comm _ _

theorem sendsNaming_append (m : Fin 32) (xs ys : List Request) :
    sendsNaming m (xs ++ ys) = sendsNaming m xs + sendsNaming m ys := by
  simp [sendsNaming]

theorem sendsNaming_cons (m : Fin 32) (r : Request) (rest : List Request) :
    sendsNaming m (r :: rest) = sendsNaming m [r] + sendsNaming m rest := sendsNaming_append m [r] rest

theorem sendsNaming_send (m m' : Fin 32) (source : Source) (notify : Bool) :
    sendsNaming m [.send m' source notify] = if m' = m then 1 else 0 := by
  by_cases h : m' = m <;> simp [sendsNaming, Request.names, h]

theorem sendsNaming_brk (m : Fin 32) (n : Nat) : sendsNaming m [.brk n] = 0 := rfl

theorem set_busy_apply (directory : Vector Descriptor 32) (m j : Fin 32) (busy : Nat) :
    ((directory.set m { directory[m] with busy := busy })[j]).busy = if m = j then busy else directory[j].busy := by
  by_cases h : m = j
  · subst h
    simp
  · have hval : (m : Nat) ≠ j := fun e => h (Fin.ext e)
    simp [hval, h]

theorem claimMessage_busy (m j : Fin 32) (source : Source) (notify : Bool) (mm : MessageMemory) :
    (claimMessage m mm).directory[j].busy = mm.directory[j].busy + sendsNaming j [.send m source notify] := by
  rw [claimMessage, set_busy_apply, sendsNaming_send]
  split_ifs with h
  · rw [h]
  · rfl

theorem releaseRequest_busy (mm : MessageMemory) (r : Request) (m : Fin 32) :
    (releaseRequest mm r).directory[m].busy = mm.directory[m].busy - sendsNaming m [r] := by
  cases r with
  | brk n => rfl
  | send m' source notify =>
    rw [releaseRequest, releaseMessage, set_busy_apply, sendsNaming_send]
    split_ifs with h
    · rw [h]
    · rfl

theorem releaseRequests_busy (rs : List Request) (mm : MessageMemory) (m : Fin 32) :
    (rs.foldl releaseRequest mm).directory[m].busy = mm.directory[m].busy - sendsNaming m rs := by
  induction rs generalizing mm with
  | nil => rfl
  | cons r rs ih => rw [List.foldl_cons, ih, releaseRequest_busy, sendsNaming_cons m r rs, Nat.sub_sub]

/-! ## What a request's coming and going does to its transmitter -/

theorem headLeaves_tx {s : State} {ch : Channel} {r : Request} {rest : List Request} (hqueue : (s.tx ch).queue = r :: rest)
    (body : Fin 32 → Source → NoticeBody) :
    ∃ x : Transmitter, x.queue = rest ∧ (x.state = .idle ↔ rest = []) ∧
      (headLeaves ch body s).ser = (putOnLine ch x s).ser := by
  cases r with
  | brk n =>
    exact ⟨(s.tx ch).beginsNext s.mm true rest, beginsNext_queue _ _ _ _, by rw [Transmitter.beginsNext, startHead_idle],
      by rw [headLeaves_brk body hqueue]⟩
  | send m source notify =>
    exact ⟨(s.tx ch).beginsNext s.mm false rest, beginsNext_queue _ _ _ _, by rw [Transmitter.beginsNext, startHead_idle],
      headLeaves_send_ser body hqueue⟩

theorem putOnLine_tx_ne {s : State} {ch ch' : Channel} (t : Transmitter) (h : ch' ≠ ch) :
    (putOnLine ch t s).tx ch' = s.tx ch' := by
  rw [putOnLine_tx]
  exact withTx_tx_ne t h

theorem joinedBy_idle (mm : MessageMemory) (r : Request) {t : Transmitter} (h : t.state = .idle ↔ t.queue = []) :
    (t.joinedBy mm [r]).state ≠ .idle := by
  unfold Transmitter.joinedBy
  split_ifs with hempty
  · rw [Ne, startHead_idle]
    simp
  · exact mt h.1 hempty

theorem joinQueue_tx (ch ch' : Channel) (r : Request) (s : State) :
    (joinQueue ch r s).tx ch' = (s.withTx ch ((s.tx ch).joinedBy s.mm [r])).tx ch' := by
  rw [joinQueue_eq]
  split_ifs
  · exact putOnLine_tx s ch ch' _
  · rfl

theorem joinQueue_config (ch ch' : Channel) (r : Request) (s : State) :
    ((joinQueue ch r s).chan ch').config = (s.chan ch').config := by
  rw [joinQueue_eq]
  split_ifs
  · exact putOnLine_config s ch ch' _
  · exact withTx_config s ch ch' _

theorem resetTransmitter_ser (ch : Channel) (s : State) :
    (resetTransmitter ch s).ser = (s.withTx ch { (s.tx ch).abort with queue := (s.tx ch).queue.take 1 }).ser := by
  unfold resetTransmitter
  dsimp only
  rw [leaveAll_frame _ _ _ fun r s => requestLeaves_frame r _ s]

theorem abort_idle (t : Transmitter) : t.abort.state = .idle ↔ t.state = .idle := by
  cases h : t.state <;> simp [Transmitter.abort, h]

theorem abort_queue (t : Transmitter) : t.abort.queue = t.queue := by
  cases h : t.state <;> simp [Transmitter.abort, h]

/-! ## The invariant, channel by channel -/

/-- The invariant of one channel beside the requests in the other's queue. -/
structure ChannelMessagesSound (ch : Channel) (s : State) : Prop where
  queue : QueueSound (s.chan ch)
  busy : ∀ m : Fin 32, s.mm.directory[m].busy =
    sendsNaming m (s.tx ch).queue + sendsNaming m (s.tx (otherChannel ch)).queue

/-- The part of the messages' invariant that is about a descriptor. -/
structure DescriptorSound (d : Descriptor) : Prop where
  defined : 0 < d.busy → d.defined = true
  range : d.defined = true → 1 ≤ d.length ∧ d.length ≤ 256 ∧ d.offset + d.length ≤ Config.storeSize
  undefined : d.defined = false → d.offset = 0 ∧ d.length = 0

theorem messagesSound_iff (s : State) (ch : Channel) :
    MessagesSound s ↔ ChannelMessagesSound ch s ∧ QueueSound (s.chan (otherChannel ch)) ∧
      ∀ m : Fin 32, DescriptorSound s.mm.directory[m] := by
  constructor
  · intro h
    refine ⟨⟨?_, fun m => ?_⟩, ?_, fun m => ⟨h.defined m, h.range m, h.undefined m⟩⟩
    · cases ch
      exacts [h.queueA, h.queueB]
    · rw [h.busy, requestsFor_eq]
    · cases ch
      exacts [h.queueB, h.queueA]
  · intro ⟨⟨hqueue, hbusy⟩, hother, hdescriptor⟩
    have hqueues : QueueSound (s.chan .a) ∧ QueueSound (s.chan .b) := by
      cases ch
      exacts [⟨hqueue, hother⟩, ⟨hother, hqueue⟩]
    exact ⟨hqueues.1, hqueues.2, fun m => by rw [hbusy, requestsFor_eq s ch], fun m => (hdescriptor m).defined,
      fun m => (hdescriptor m).range, fun m => (hdescriptor m).undefined⟩

theorem QueueSound.congr {c d : SerialChannel} (h : QueueSound c) (hqueue : d.tx.queue = c.tx.queue)
    (hstate : d.tx.state = c.tx.state) (hconfig : d.config = c.config) : QueueSound d :=
  ⟨hqueue ▸ h.depth, by rw [hstate, hqueue, h.idle], by rw [hconfig, hqueue]; exact h.off⟩

/-- Nothing that the messages' invariant speaks of has changed. -/
structure SameQueues (s t : State) : Prop where
  queue : ∀ ch, (t.tx ch).queue = (s.tx ch).queue
  state : ∀ ch, (t.tx ch).state = (s.tx ch).state
  config : ∀ ch, (t.chan ch).config = (s.chan ch).config

theorem MessagesSound.congr {s t : State} (h : MessagesSound s) (hdirectory : t.mm.directory = s.mm.directory)
    (hqueues : SameQueues s t) : MessagesSound t := by
  rw [messagesSound_iff _ .a] at h ⊢
  obtain ⟨⟨hqueue, hbusy⟩, hother, hdescriptor⟩ := h
  refine ⟨⟨hqueue.congr (hqueues.queue _) (hqueues.state _) (hqueues.config _), fun m => ?_⟩,
    hother.congr (hqueues.queue _) (hqueues.state _) (hqueues.config _), fun m => ?_⟩
  · rw [hdirectory, hqueues.queue, hqueues.queue]
    exact hbusy m
  · rw [hdirectory]
    exact hdescriptor m

theorem SameQueues.of_ser {s t : State} (h : t.ser = s.ser) : SameQueues s t :=
  ⟨fun ch => by rw [tx_of_ser_eq h], fun ch => by rw [tx_of_ser_eq h], fun ch => by rw [chan_of_ser_eq h]⟩

theorem SameQueues.of_withRx {s t : State} {ch : Channel} {r : Receiver} (h : t.ser = (s.withRx ch r).ser) : SameQueues s t :=
  ⟨fun ch' => by rw [tx_of_ser_eq h, withRx_tx], fun ch' => by rw [tx_of_ser_eq h, withRx_tx],
    fun ch' => by rw [chan_of_ser_eq h, withRx_config]⟩

theorem SameQueues.trans {s t u : State} (h : SameQueues s t) (h' : SameQueues t u) : SameQueues s u :=
  ⟨fun ch => (h'.queue ch).trans (h.queue ch), fun ch => (h'.state ch).trans (h.state ch),
    fun ch => (h'.config ch).trans (h.config ch)⟩

/-- A transmitter whose queue and state are kept. -/
theorem SameQueues.of_withTx {s : State} {ch : Channel} {t : Transmitter} (hqueue : t.queue = (s.tx ch).queue)
    (hstate : t.state = (s.tx ch).state) : SameQueues s (s.withTx ch t) := by
  refine ⟨fun ch' => ?_, fun ch' => ?_, fun ch' => withTx_config s ch ch' t⟩
  all_goals
    by_cases h : ch' = ch
    · subst h
      rw [withTx_tx]
      assumption
    · rw [withTx_tx_ne t h]

theorem SameQueues.of_settle (s : State) (ch : Channel) : SameQueues s (s.withTx ch (s.tx ch).settle) :=
  .of_withTx (Transmitter.settle_queue _) (Transmitter.settle_state _)

theorem SameQueues.of_bringTicks (s : State) : SameQueues s (bringTicks s) := by
  obtain ⟨-, heq⟩ | ⟨-, -, htx, hrest⟩ := bringTicks_cases s
  · rw [heq]
    exact .of_ser rfl
  · exact ⟨fun ch => by rw [htx, Transmitter.settle_queue], fun ch => by rw [htx, Transmitter.settle_state],
      fun ch => (hrest ch).2⟩

/-! ## Effects on a transmitter -/

/-- The channel's transmitter has a new queue, beside which its busy counts are right; the other channel and what the descriptors
say are as before. -/
theorem MessagesSound.requeue {s t : State} {ch : Channel} {x : Transmitter} (h : MessagesSound s)
    (htx : ∀ ch', t.tx ch' = (s.withTx ch x).tx ch') (hconfig : ∀ ch', (t.chan ch').config = (s.chan ch').config)
    (hqueue : QueueSound (t.chan ch)) (hmm : s.mm.sameButBusy t.mm)
    (hbusy : ∀ (m : Fin 32) (others : Nat), s.mm.directory[m].busy = sendsNaming m (s.tx ch).queue + others →
      t.mm.directory[m].busy = sendsNaming m x.queue + others)
    (hdefined : ∀ m : Fin 32, 0 < t.mm.directory[m].busy → 0 < s.mm.directory[m].busy ∨ s.mm.directory[m].defined = true) :
    MessagesSound t := by
  rw [messagesSound_iff _ ch] at h ⊢
  obtain ⟨⟨-, hcounts⟩, hother, hdescriptor⟩ := h
  have hothertx : t.tx (otherChannel ch) = s.tx (otherChannel ch) := by rw [htx, withTx_tx_other]
  have hthistx : t.tx ch = x := by rw [htx, withTx_tx]
  refine ⟨⟨hqueue, fun m => ?_⟩, hother.congr (congrArg Transmitter.queue hothertx) (congrArg Transmitter.state hothertx)
    (hconfig _), fun m => ?_⟩
  · rw [hothertx, hthistx]
    exact hbusy m _ (hcounts m)
  · obtain ⟨hd, hrange, hundefined⟩ := hdescriptor m
    have hsame : t.mm.directory[m].defined = s.mm.directory[m].defined := by rw [hmm.2 m]
    refine ⟨fun hb => ?_, fun hdef => ?_, fun hdef => ?_⟩
    · rw [hsame]
      exact (hdefined m hb).elim hd id
    · rw [hmm.2 m]
      exact hrange (hsame ▸ hdef)
    · rw [hmm.2 m]
      exact hundefined (hsame ▸ hdef)

theorem MessagesSound.queueSound {s : State} (h : MessagesSound s) (ch : Channel) : QueueSound (s.chan ch) :=
  ((messagesSound_iff s ch).1 h).1.queue

theorem headLeaves_messagesSound {s : State} (h : MessagesSound s) (ch : Channel) (body : Fin 32 → Source → NoticeBody) :
    MessagesSound (headLeaves ch body s) := by
  cases hqueue : (s.tx ch).queue with
  | nil =>
    rw [headLeaves, hqueue]
    exact h
  | cons r rest =>
    obtain ⟨x, hx, hidle, hser⟩ := headLeaves_tx hqueue body
    have htx : ∀ ch', (headLeaves ch body s).tx ch' = (s.withTx ch x).tx ch' := fun ch' => by
      rw [tx_of_ser_eq hser, putOnLine_tx]
    have hconfig : ∀ ch', ((headLeaves ch body s).chan ch').config = (s.chan ch').config := fun ch' => by
      rw [chan_of_ser_eq hser, putOnLine_config]
    have hmm : (headLeaves ch body s).mm = releaseRequest s.mm r := by simp [headLeaves_mm, hqueue]
    have hthis : ((headLeaves ch body s).chan ch).tx = x := by
      have := htx ch
      rwa [withTx_tx] at this
    obtain ⟨hdepth, -, hoff⟩ := h.queueSound ch
    refine h.requeue htx hconfig ⟨?_, ?_, fun hdisabled => ?_⟩ (hmm ▸ releaseRequest_sameButBusy _ r)
      (fun m others hcount => ?_) (fun m hbusy => .inl ?_)
    · have hlonger : rest.length ≤ (s.tx ch).queue.length := by simp [hqueue]
      rw [hthis, hx]
      exact Nat.le_trans hlonger hdepth
    · rw [hthis, hx, hidle]
    · rw [hconfig] at hdisabled
      exact absurd (hqueue.symm.trans (hoff hdisabled)) (by simp)
    · rw [hmm, releaseRequest_busy, hcount, hqueue, sendsNaming_cons, hx]
      omega
    · rw [hmm, releaseRequest_busy] at hbusy
      omega

theorem queueRefusal_none {s : State} {ch : Channel} (h : queueRefusal s ch = none) :
    (s.chan ch).config.txEnable = true ∧ (s.tx ch).queue.length < Config.queueDepth := by
  unfold queueRefusal at h
  split_ifs at h with henabled hfull
  exact ⟨henabled, Nat.lt_of_not_le hfull⟩

theorem joinQueue_queueSound {s : State} {ch : Channel} (h : QueueSound (s.chan ch)) (hfree : queueRefusal s ch = none)
    (r : Request) : QueueSound ((joinQueue ch r s).chan ch) := by
  obtain ⟨henabled, hroom⟩ := queueRefusal_none hfree
  have htx : ((joinQueue ch r s).chan ch).tx = (s.tx ch).joinedBy s.mm [r] := by
    have := joinQueue_tx ch ch r s
    rwa [withTx_tx] at this
  refine ⟨?_, ?_, fun hdisabled => ?_⟩
  · rw [htx, joinedBy_queue, List.length_append]
    exact hroom
  · rw [htx, joinedBy_queue]
    have hbegun : ((s.tx ch).joinedBy s.mm [r]).state ≠ .idle := joinedBy_idle s.mm r h.idle
    simp [hbegun]
  · rw [joinQueue_config, henabled] at hdisabled
    exact Bool.noConfusion hdisabled

theorem joinSend_messagesSound {s : State} (h : MessagesSound s) {ch : Channel} {m : Fin 32}
    (hfree : sendRefusal s ch m = none) (source : Source) (notify : Bool) : MessagesSound (joinSend ch m source notify s) := by
  unfold sendRefusal at hfree
  split_ifs at hfree with hdefined
  refine h.requeue (joinQueue_tx ch · _ s) (joinQueue_config ch · _ s)
    (joinQueue_queueSound (h.queueSound ch) hfree _) (.claimMessage m) (fun j others hcount => ?_) (fun j hbusy => ?_)
  · have hclaimed := claimMessage_busy m j source notify s.mm
    rw [joinedBy_queue, sendsNaming_append]
    exact (hclaimed.trans (by rw [hcount])).trans (by omega)
  · by_cases hj : m = j
    · exact .inr (hj ▸ hdefined)
    · refine .inl ?_
      have hclaimed := claimMessage_busy m j source notify s.mm
      rw [sendsNaming_send, if_neg hj] at hclaimed
      exact hbusy.trans_eq hclaimed

theorem joinBreak_messagesSound {s : State} (h : MessagesSound s) {ch : Channel} (hfree : queueRefusal s ch = none)
    (length : Nat) : MessagesSound (joinBreak ch length s) := by
  have hmm : (joinBreak ch length s).mm = s.mm := by rw [joinBreak_frame]
  refine h.requeue (joinQueue_tx ch · _ s) (joinQueue_config ch · _ s)
    (joinQueue_queueSound (h.queueSound ch) hfree _) (.of_eq hmm) (fun j others hcount => ?_) (fun j hbusy => .inl (hmm ▸ hbusy))
  rw [joinedBy_queue, sendsNaming_append, sendsNaming_brk, hmm]
  exact hcount

theorem resetTransmitter_messagesSound {s : State} (h : MessagesSound s) (ch : Channel) :
    MessagesSound (resetTransmitter ch s) := by
  have hser := resetTransmitter_ser ch s
  have hmm := resetTransmitter_mm ch s
  have htx : ((resetTransmitter ch s).chan ch).tx = { (s.tx ch).abort with queue := (s.tx ch).queue.take 1 } := by
    have := tx_of_ser_eq hser ch
    rwa [withTx_tx] at this
  have hconfig : ∀ ch', ((resetTransmitter ch s).chan ch').config = (s.chan ch').config := fun ch' => by
    rw [chan_of_ser_eq hser, withTx_config]
  obtain ⟨hdepth, hidle, hoff⟩ := h.queueSound ch
  refine h.requeue (fun ch' => tx_of_ser_eq hser ch') hconfig ⟨?_, ?_, fun hdisabled => ?_⟩
    (hmm ▸ releaseRequests_sameButBusy _ _) (fun m others hcount => ?_) (fun m hbusy => .inl ?_)
  · rw [htx]
    exact Nat.le_trans (List.length_take_le _ _) (by decide)
  · rw [htx]
    rw [abort_idle, List.take_eq_nil_iff]
    simpa using! hidle
  · rw [hconfig] at hdisabled
    rw [htx]
    exact (congrArg (List.take 1) (hoff hdisabled) :)
  · have hsplit := sendsNaming_append m ((s.tx ch).queue.take 1) ((s.tx ch).queue.drop 1)
    rw [List.take_append_drop] at hsplit
    rw [hmm, releaseRequests_busy, hcount, hsplit]
    dsimp only
    omega
  · rw [hmm, releaseRequests_busy] at hbusy
    omega

/-- CH_CONFIG finds the queue empty, so its transmitter may be switched off (R95, R100). -/
theorem configures_messagesSound {s : State} (h : MessagesSound s) {ch : Channel} (hqueue : (s.tx ch).queue = [])
    (config : ChannelConfig) (r : Receiver) :
    MessagesSound { s with ser := { s.ser with chans := s.ser.chans.set ch { s.chan ch with config := config, rx := r } } } := by
  rw [messagesSound_iff _ ch] at h ⊢
  obtain ⟨⟨⟨hdepth, hidle, -⟩, hcounts⟩, hother, hdescriptor⟩ := h
  refine ⟨⟨?_, ?_⟩, ?_, hdescriptor⟩
  · simp only [State.chan, get_set_same]
    exact ⟨hdepth, hidle, fun _ => hqueue⟩
  · simpa only [State.tx, State.chan, get_set_same, get_set_other] using hcounts
  · simpa only [State.chan, get_set_other] using hother

theorem TransmitEffect.messagesSound {s t : State} {ch : Channel} (h : TransmitEffect s ch t) (hs : MessagesSound s) :
    MessagesSound t := by
  have hsettled := hs.congr (t := s.withTx ch (s.tx ch).settle) rfl (.of_settle s ch)
  cases h with
  | settles => exact hsettled
  | goesOn x hqueue hstate =>
    refine hs.congr (by rw [putOnLine_mm, withTx_mm]) ?_
    have hkept := SameQueues.of_withTx (s := s) hqueue hstate
    refine ⟨fun ch' => ?_, fun ch' => ?_, fun ch' => ?_⟩
    · rw [putOnLine_tx, withTx_withTx, hkept.queue]
    · rw [putOnLine_tx, withTx_withTx, hkept.state]
    · rw [putOnLine_config, withTx_config]
  | leaves body => exact headLeaves_messagesSound hsettled ch body
  | sends m source notify hfree => exact joinSend_messagesSound hs hfree source notify
  | breaks length hfree => exact joinBreak_messagesSound hs hfree length
  | aborts =>
    obtain ⟨hdepth, hidle, hoff⟩ := hs.queueSound ch
    have htx : ((s.withTx ch (s.tx ch).abort).chan ch).tx = (s.tx ch).abort := withTx_tx s ch _
    refine hs.requeue (fun _ => rfl) (fun ch' => withTx_config s ch ch' _) ⟨?_, ?_, fun hdisabled => ?_⟩ (.of_eq rfl)
      (fun m others hcount => ?_) (fun m hbusy => .inl hbusy)
    · rw [htx, abort_queue]
      exact hdepth
    · rw [htx, abort_queue, abort_idle]
      exact hidle
    · rw [withTx_config] at hdisabled
      rw [htx, abort_queue]
      exact hoff hdisabled
    · rw [abort_queue]
      exact hcount
  | resets => exact resetTransmitter_messagesSound hs ch
  | configures config r hqueue => exact configures_messagesSound hs hqueue config r

/-! ## Occurrences, ticks and descriptions -/

/-- A performed occurrence hands out a SEND as one that is accepted joins its queue, or none. -/
theorem takeOccurrence_sends (i : Fin 64) (rest : List (Fin 64)) (s : State) :
    (takeOccurrence i rest s).ser = s.ser ∧ (takeOccurrence i rest s).mm = s.mm ∨
      ∃ ch m source notify, sendRefusal s ch m = none ∧
        (takeOccurrence i rest s).ser = (joinSend ch m source notify s).ser ∧
        (takeOccurrence i rest s).mm = (joinSend ch m source notify s).mm := by
  by_cases hlate : s.tb.count - s.au.slots[i].entry.due ≤ s.au.slots[i].entry.tolerance
  · have htaken : takeOccurrence i rest s = performOccurrence i s.au.slots[i].entry (s.withDueList rest) := if_pos hlate
    obtain ⟨hser, hmm⟩ := performOccurrence_ser_mm (s.withDueList rest) i s.au.slots[i].entry
    rw [htaken, hser, hmm]
    cases hm : s.au.slots[i].entry.message with
    | none => exact .inl (handedOut_sends_nothing _ i _ (.inl hm))
    | some m =>
      by_cases hsent : s.au.slots[i].entry.sendRefused (s.withDueList rest) = none
      · obtain ⟨hjoined, hclaimed⟩ := handedOut_sends _ i _ hm hsent
        rw [hjoined, hclaimed]
        rw [Entry.sendRefused, hm] at hsent
        exact .inr ⟨s.au.slots[i].entry.channel, m, .slot i, s.au.slots[i].entry.notify.onTxEnd, hsent,
          joinQueue_ser_congr _ _ rfl rfl, rfl⟩
      · exact .inl (handedOut_sends_nothing _ i _ (.inr hsent))
  · have hmissed : takeOccurrence i rest s = missOccurrence i s.au.slots[i].entry (s.withDueList rest) := if_neg hlate
    rw [hmissed, missOccurrence_ser, missOccurrence_mm]
    exact .inl ⟨rfl, rfl⟩

theorem takeOccurrence_messagesSound {s : State} (h : MessagesSound s) (i : Fin 64) (rest : List (Fin 64)) :
    MessagesSound (takeOccurrence i rest s) := by
  obtain ⟨hser, hmm⟩ | ⟨ch, m, source, notify, hfree, hser, hmm⟩ := takeOccurrence_sends i rest s
  · exact h.congr (by rw [hmm]) (.of_ser hser)
  · exact (joinSend_messagesSound h hfree source notify).congr (by rw [hmm]) (.of_ser hser)

theorem tickTransmitter_same (late : Bool) (t : Transmitter) :
    (tickTransmitter late t).queue = t.queue ∧ (tickTransmitter late t).state = t.state := by
  unfold tickTransmitter
  dsimp only
  split_ifs
  · exact ⟨Transmitter.settle_queue t, Transmitter.settle_state t⟩
  · rw [(takeTick_queue _).1, (takeTick_queue _).2]
    exact ⟨Transmitter.settle_queue t, Transmitter.settle_state t⟩

theorem SameQueues.of_issueTick (ev : BitVec 4) (order : TickOrder) (s : State) : SameQueues s (issueTick ev order s) := by
  have htime : SameQueues s (tickTimeBase s) := .of_ser (tickTimeBase_ser s)
  by_cases hup : (tickTimeBase s).mainUp
  · simp only [issueTick, whenMain_up _ _ hup]
    refine htime.trans (.trans ?_ (.of_bringTicks _))
    have ha := SameQueues.of_withTx (s := tickTimeBase s) (ch := .a) (tickTransmitter_same order.lateTxA _).1
      (tickTransmitter_same order.lateTxA _).2
    have hb := SameQueues.of_withTx (s := (tickTimeBase s).withTx .a (tickTransmitter order.lateTxA ((tickTimeBase s).tx .a)))
      (ch := .b) (t := tickTransmitter order.lateTxB ((tickTimeBase s).tx .b)) (tickTransmitter_same order.lateTxB _).1
      (tickTransmitter_same order.lateTxB _).2
    exact ha.trans (hb.trans (.of_ser rfl))
  · simp only [issueTick, whenMain_down _ _ hup]
    exact htime

theorem MemoryEffect.messagesSound {s t : State} (h : MemoryEffect s t) (hs : MessagesSound s) : MessagesSound t := by
  cases h with
  | writes => exact hs.congr rfl (.of_ser rfl)
  | describes m defined offset length hbusy hdefined hundefined =>
    rw [messagesSound_iff _ .a] at hs ⊢
    obtain ⟨⟨hqueue, hcounts⟩, hother, hdescriptor⟩ := hs
    refine ⟨⟨hqueue, fun j => ?_⟩, hother, fun j => ?_⟩
    · refine Eq.trans ?_ (hcounts j)
      by_cases hj : (m : Nat) = j
      · simp [hj]
      · simp [hj]
    · by_cases hj : (m : Nat) = j
      · obtain rfl := Fin.ext hj
        simp only [Fin.getElem_fin, Vector.getElem_set_self]
        exact ⟨fun hb => absurd hbusy (Nat.ne_of_gt hb), hdefined, hundefined⟩
      · simpa [hj] using hdescriptor j

/-! ## Every step -/

/-- A part whose transmitters are at rest with no message in use. -/
theorem messagesSound_of_idle {s : State} (hqueue : ∀ ch, QueueSound (s.chan ch)) (hempty : ∀ ch, (s.tx ch).queue = [])
    (hdescriptor : ∀ m : Fin 32, DescriptorSound s.mm.directory[m]) (hbusy : ∀ m : Fin 32, s.mm.directory[m].busy = 0) :
    MessagesSound s := by
  refine (messagesSound_iff s .a).2 ⟨⟨hqueue _, fun m => ?_⟩, hqueue _, hdescriptor⟩
  rw [hbusy, hempty, hempty]
  rfl

theorem queueSound_reset (ch : Channel) : QueueSound (Serial.reset.chans.get ch) := by
  cases ch
  · exact ⟨by decide, by decide, by decide⟩
  · exact ⟨by decide, by decide, by decide⟩

theorem queue_reset (ch : Channel) : (Serial.reset.chans.get ch).tx.queue = [] := by cases ch <;> rfl

/-- A reset that keeps the store keeps its descriptors, none of them in use (R194). -/
theorem messagesSound_of_kept {s t : State} (hs : MessagesSound s) (hser : t.ser = Serial.reset)
    (hdirectory : ∀ m : Fin 32, t.mm.directory[m] = { s.mm.directory[m] with busy := 0 }) : MessagesSound t := by
  refine messagesSound_of_idle (fun ch => ?_) (fun ch => ?_) (fun m => ?_) fun m => by rw [hdirectory]
  · rw [State.chan, hser]
    exact queueSound_reset ch
  · rw [State.tx, State.chan, hser]
    exact queue_reset ch
  · rw [hdirectory]
    exact ⟨fun h => absurd h (by simp), hs.range m, hs.undefined m⟩

theorem Effect.messagesSound {s t : State} (h : Effect s t) (hs : MessagesSound s) : MessagesSound t := by
  cases h with
  | quiet => exact hs
  | lineWrite | detaches => exact hs.congr rfl (.of_ser rfl)
  | time h => rw [h.frame]; exact hs.congr rfl (.of_ser rfl)
  | tick ev order => exact hs.congr (by rw [issueTick_frame]) (.of_issueTick ev order s)
  | pulseEnd =>
    have hsettled : MessagesSound { s with du := s.du.settle } := hs.congr rfl (.of_ser rfl)
    refine hsettled.congr ?_ (.of_bringTicks _)
    rw [pulseEnded_frame]
  | agenda h => rw [h.frame]; exact hs.congr rfl (.of_ser rfl)
  | occurrence i rest =>
    refine (takeOccurrence_messagesSound hs i rest).congr ?_ (.of_bringTicks _)
    rw [bringTicks_mm]
  | memory h => exact h.messagesSound hs
  | transmit ch h => exact h.messagesSound hs
  | receive ch h =>
    obtain ⟨r, hser⟩ := h.ser
    exact hs.congr (by rw [h.frame]) (.of_withRx hser)
  | watchAfresh a b => exact hs.congr rfl (SameQueues.trans (.of_withRx rfl) (.of_withRx rfl))
  | capture h => rw [h.frame]; exact hs.congr rfl (.of_ser rfl)
  | notices h => rw [h.frame]; exact hs.congr rfl (.of_ser rfl)
  | resets => exact messagesSound_of_kept hs rfl fun m => by simp [resetKeepingStore, resetMain, MessageMemory.kept]

theorem SupplyEffect.messagesSound {s t : State} (h : SupplyEffect s t) (hs : MessagesSound s) : MessagesSound t := by
  cases h with
  | powerLost tb power =>
    have hlost : ∀ m : Fin 32, (s.powerLost tb power).mm.directory[m] = Descriptor.undefined := fun m => by
      simp [State.powerLost, MessageMemory.lost]
    refine messagesSound_of_idle queueSound_reset queue_reset (fun m => ?_) fun m => ?_
    · rw [hlost]
      exact ⟨by decide, by decide, by decide⟩
    · rw [hlost]
      rfl
  | mainReset => exact messagesSound_of_kept hs rfl fun m => by rw [mainReset_directory]
  | releases | backupLost => exact hs.congr rfl (.of_ser rfl)
  | nothing => exact hs

/-- Settles O57: each effect on a queue adds or takes the requests that its busy counts rise or fall by. -/
theorem everyStepKeepsMessagesSound : Obligations.EveryStepKeepsMessagesSound := by
  intro s t hs h
  refine step_keeps (P := MessagesSound) (fun _ _ h => ?_) (fun halike hs => ?_) SupplyEffect.messagesSound
    Effect.messagesSound hs h
  · exact h.congr rfl (.of_ser rfl)
  · exact hs.congr halike.directory ⟨fun ch => by rw [halike.tx], fun ch => by rw [halike.tx], fun ch => by rw [halike.chan]⟩

end Sys2Proof.Machine
end

section
/-! SUPPORT. The Capture Unit's invariant (R134 to R137): what each operation on records does to their slots, their rings and
their places. -/

namespace Sys2Proof.Machine

/-! ## The bytes of a list of records in a ring (R137) -/

section
variable {ch : Channel} {r r' : CaptureRecord} {xs ys : List CaptureRecord}

theorem heldBy_append (ch : Channel) (xs ys : List CaptureRecord) : heldBy ch (xs ++ ys) = heldBy ch xs + heldBy ch ys := by
  simp [heldBy]

theorem heldBy_own (h : r.source = .frame ch) : heldBy ch [r] = r.length := by simp [heldBy, h]

theorem heldBy_other (h : r.source ≠ .frame ch) : heldBy ch [r] = 0 := by simp [heldBy, h]

theorem lieInOrder_append (ch : Channel) (p : Nat) (xs ys : List CaptureRecord) :
    lieInOrder ch p (xs ++ ys) ↔ lieInOrder ch p xs ∧ lieInOrder ch (p + heldBy ch xs) ys := by
  induction xs generalizing p with
  | nil => simp [lieInOrder, heldBy]
  | cons r xs ih =>
    have hsum : (if r.source = .frame ch then p + r.length else p) + heldBy ch xs = p + heldBy ch (r :: xs) := by
      simp only [heldBy, List.map_cons, List.sum_cons]
      split_ifs <;> omega
    simp only [List.cons_append, lieInOrder, ih, hsum, and_assoc]

/-- A place counts as the one it is past the end of the ring. -/
theorem lieInOrder_mod {p q : Nat} (h : p % Config.ringSize = q % Config.ringSize) (xs : List CaptureRecord) :
    lieInOrder ch p xs ↔ lieInOrder ch q xs := by
  induction xs generalizing p q with
  | nil => rfl
  | cons r xs ih =>
    have hnext : (if r.source = .frame ch then p + r.length else p) % Config.ringSize =
        (if r.source = .frame ch then q + r.length else q) % Config.ringSize := by
      split_ifs
      · rw [Nat.add_mod, h, ← Nat.add_mod]
      · exact h
    rw [lieInOrder, lieInOrder, h, ih hnext]

theorem lieInOrder_singleton {p : Nat} : lieInOrder ch p [r] ↔ (r.source = .frame ch → r.place = p % Config.ringSize) := by
  simp [lieInOrder]

/-- A ring holds the bytes of a list of records, one behind the other. -/
structure Ring.Carries (ch : Channel) (ring : Ring) (records : List CaptureRecord) : Prop where
  count : ring.held.length = heldBy ch records
  start : ring.start < Config.ringSize
  places : lieInOrder ch ring.start records
  room : ring.held.length ≤ Config.ringSize

namespace Ring.Carries
variable {ring : Ring}

/-- Of a record its source, place and length alone matter. -/
theorem congr (h : ring.Carries ch (xs ++ [r] ++ ys)) (hsource : r'.source = r.source) (hplace : r'.place = r.place)
    (hlength : r'.length = r.length) : ring.Carries ch (xs ++ [r'] ++ ys) := by
  have hheld : heldBy ch [r'] = heldBy ch [r] := by simp [heldBy, hsource, hlength]
  obtain ⟨hcount, hstart, hplaces, hroom⟩ := h
  simp only [lieInOrder_append, heldBy_append, lieInOrder_singleton] at hcount hplaces
  refine ⟨?_, hstart, ?_, hroom⟩
  · simpa only [heldBy_append, hheld] using hcount
  · simpa only [lieInOrder_append, heldBy_append, lieInOrder_singleton, hheld, hsource, hplace] using hplaces

/-- A record of another source holds no bytes of the ring. -/
theorem skip (h : ring.Carries ch (xs ++ ys)) (hother : r.source ≠ .frame ch) : ring.Carries ch (xs ++ [r] ++ ys) := by
  obtain ⟨hcount, hstart, hplaces, hroom⟩ := h
  refine ⟨?_, hstart, ?_, hroom⟩
  · simpa only [heldBy_append, heldBy_other hother, Nat.add_zero] using hcount
  · simpa only [lieInOrder_append, heldBy_append, lieInOrder_singleton, heldBy_other hother, Nat.add_zero, hother, false_imp_iff,
      and_true] using hplaces

/-- A record with no bytes stands at the free end. -/
theorem reserve (h : ring.Carries ch xs) (hlength : r.length = 0) (hplace : r.place = ring.freeEnd) :
    ring.Carries ch (xs ++ [r]) := by
  obtain ⟨hcount, hstart, hplaces, hroom⟩ := h
  have hempty : heldBy ch [r] = 0 := by simp [heldBy, hlength]
  refine ⟨?_, hstart, (lieInOrder_append ..).2 ⟨hplaces, lieInOrder_singleton.2 fun _ => ?_⟩, hroom⟩
  · rw [heldBy_append, hempty, hcount, Nat.add_zero]
  · rw [hplace, freeEnd, hcount]

theorem store (h : ring.Carries ch (xs ++ [r])) (hsource : r.source = .frame ch) (hroom : ring.held.length < Config.ringSize)
    (byte : Byte) : Carries ch { ring with held := ring.held ++ [byte] } (xs ++ [{ r with length := r.length + 1 }]) := by
  obtain ⟨hcount, hstart, hplaces, -⟩ := h
  have hlonger : heldBy ch [{ r with length := r.length + 1 }] = heldBy ch [r] + 1 := by simp [heldBy, hsource]
  rw [lieInOrder_append, lieInOrder_singleton] at hplaces
  refine ⟨?_, hstart, (lieInOrder_append ..).2 ⟨hplaces.1, lieInOrder_singleton.2 hplaces.2⟩, ?_⟩
  · rw [heldBy_append] at hcount
    rw [List.length_append, hcount, heldBy_append, hlonger]
    rfl
  · rw [List.length_append]
    exact hroom

/-- The bytes of the last record are freed from the newest end. -/
theorem freeNewest (h : ring.Carries ch (xs ++ [r])) (hsource : r.source = .frame ch) :
    (ring.freeNewest r.length).Carries ch xs := by
  obtain ⟨hcount, hstart, hplaces, hroom⟩ := h
  rw [heldBy_append, heldBy_own hsource] at hcount
  have hleft : (ring.freeNewest r.length).held.length = heldBy ch xs := by
    rw [Ring.freeNewest, List.length_take]
    omega
  refine ⟨hleft, hstart, ((lieInOrder_append ..).1 hplaces).1, ?_⟩
  rw [hleft]
  omega

/-- The bytes of the first records are freed from the oldest end. -/
theorem freeOldest (h : ring.Carries ch (xs ++ ys)) : (ring.freeOldest (heldBy ch xs)).Carries ch ys := by
  obtain ⟨hcount, hstart, hplaces, hroom⟩ := h
  rw [heldBy_append] at hcount
  have hleft : (ring.freeOldest (heldBy ch xs)).held.length = heldBy ch ys := by
    rw [Ring.freeOldest, List.length_drop]
    omega
  refine ⟨hleft, Nat.mod_lt _ (by decide), ?_, ?_⟩
  · have hmin : min (heldBy ch xs) ring.held.length = heldBy ch xs := Nat.min_eq_left (by omega)
    rw [Ring.freeOldest, hmin]
    exact (lieInOrder_mod (Nat.mod_mod _ _) ys).2 ((lieInOrder_append ..).1 hplaces).2
  · rw [hleft]
    omega

end Ring.Carries
end

theorem freeOldest_zero {ring : Ring} (h : ring.start < Config.ringSize) : ring.freeOldest 0 = ring := by
  simp [Ring.freeOldest, Nat.mod_eq_of_lt h]

/-! ## The unit without its receivers -/

/-- The records with bytes in a channel's ring, the oldest first. -/
def Capture.records (cu : Capture) (ch : Channel) : List CaptureRecord :=
  cu.window.toList ++ cu.queue ++ (cu.opened.get ch).toList

/-- The slots in use (R134). -/
def Capture.slotsUsed (cu : Capture) : Nat := cu.opened.a.toList.length + cu.opened.b.toList.length + cu.queue.length

theorem Capture.slotsUsed_eq (cu : Capture) (ch : Channel) : cu.slotsUsed =
    (cu.opened.get ch).toList.length + (cu.opened.get (otherChannel ch)).toList.length + cu.queue.length := by
  cases ch
  · rfl
  · exact congrArg (· + cu.queue.length) (Nat.add_comm _ _)

structure RecordsSound (ch : Channel) (cu : Capture) : Prop where
  source : ∀ r, cu.opened.get ch = some r → r.source = .frame ch
  ring : (cu.rings.get ch).Carries ch (cu.records ch)
  dropped : cu.dropped.get ch ≤ 255

structure RecordsAllSound (cu : Capture) : Prop where
  slots : cu.slotsUsed ≤ Config.captureSlots
  droppedEv : cu.droppedEv ≤ 255
  channel : ∀ ch, RecordsSound ch cu

/-- What the invariant says of a receiver and its channel's open record (R114). -/
structure FrameSound (r : Receiver) (opened : Option CaptureRecord) : Prop where
  opened : r.frame = .opened ↔ opened.isSome = true
  unframed : r.state = .idle ∨ r.state = .brk → r.frame = .none

theorem channelCaptureSound_iff (s : State) (ch : Channel) :
    ChannelCaptureSound s ch ↔ RecordsSound ch s.cu ∧ FrameSound (s.rx ch) (s.cu.opened.get ch) := by
  constructor
  · intro ⟨hopened, hunframed, hsource, hring, hstart, hplaces, hsize, hdropped⟩
    exact ⟨⟨hsource, ⟨hring, hstart, hplaces, hsize⟩, hdropped⟩, hopened, hunframed⟩
  · intro ⟨⟨hsource, ⟨hring, hstart, hplaces, hsize⟩, hdropped⟩, hopened, hunframed⟩
    exact ⟨hopened, hunframed, hsource, hring, hstart, hplaces, hsize, hdropped⟩

theorem captureSound_iff (s : State) :
    CaptureSound s ↔ RecordsAllSound s.cu ∧ ∀ ch, FrameSound (s.rx ch) (s.cu.opened.get ch) := by
  constructor
  · intro ⟨hslots, hdropped, ha, hb⟩
    rw [channelCaptureSound_iff] at ha hb
    refine ⟨⟨hslots, hdropped, fun ch => ?_⟩, fun ch => ?_⟩
    · cases ch
      exacts [ha.1, hb.1]
    · cases ch
      exacts [ha.2, hb.2]
  · intro ⟨⟨hslots, hdropped, hrecords⟩, hframes⟩
    exact ⟨hslots, hdropped, (channelCaptureSound_iff s .a).2 ⟨hrecords .a, hframes .a⟩,
      (channelCaptureSound_iff s .b).2 ⟨hrecords .b, hframes .b⟩⟩

/-! ## Operations on records -/

theorem slotFree_iff_slotsUsed (cu : Capture) : cu.slotFree = true ↔ cu.slotsUsed < Config.captureSlots := slotFree_iff cu

/-- A record closed at once, with no bytes (R118, R130). -/
theorem RecordsAllSound.closeEmpty {s : State} {r : CaptureRecord} (h : RecordsAllSound s.cu) (hfree : s.cu.slotFree = true)
    (hlength : r.length = 0)
    (hplace : ∀ ch, r.source = .frame ch → r.place = (s.cu.rings.get ch).freeEnd ∧ s.cu.opened.get ch = none) :
    RecordsAllSound (closeRecord r s).cu := by
  obtain ⟨-, hdropped, hchannel⟩ := h
  rw [slotFree_iff_slotsUsed] at hfree
  rw [closeRecord_cu]
  refine ⟨?_, hdropped, fun ch => ?_⟩
  · simp only [Capture.slotsUsed, List.length_append, List.length_singleton] at hfree ⊢
    omega
  · obtain ⟨hsource, hring, hdrop⟩ := hchannel ch
    refine ⟨hsource, ?_, hdrop⟩
    simp only [Capture.records, ← List.append_assoc] at hring ⊢
    by_cases hown : r.source = .frame ch
    · obtain ⟨hend, hnone⟩ := hplace ch hown
      rw [hnone, Option.toList_none, List.append_nil] at hring ⊢
      exact hring.reserve hlength hend
    · exact hring.skip hown

/-- A slot is reserved for a frame (R120, R135). -/
theorem RecordsAllSound.reserve {cu : Capture} {ch : Channel} (h : RecordsAllSound cu) (hfree : cu.slotFree = true)
    (hnone : cu.opened.get ch = none) (stamp : Stamp) :
    RecordsAllSound { cu with
      opened := cu.opened.set ch (some (freshRecord (.frame ch) stamp (cu.rings.get ch).freeEnd)) } := by
  obtain ⟨-, hdropped, hchannel⟩ := h
  rw [slotFree_iff_slotsUsed, Capture.slotsUsed_eq cu ch, hnone, Option.toList_none, List.length_nil] at hfree
  refine ⟨?_, hdropped, fun ch' => ?_⟩
  · rw [Capture.slotsUsed_eq _ ch, get_set_same, get_set_other, Option.toList_some, List.length_singleton]
    dsimp only
    omega
  · obtain ⟨hsource, hring, hdrop⟩ := hchannel ch'
    obtain rfl | rfl := eq_or_eq_otherChannel ch ch'
    · rw [Capture.records, hnone, Option.toList_none, List.append_nil] at hring
      refine ⟨fun r hr => ?_, ?_, hdrop⟩
      · rw [get_set_same, Option.some.injEq] at hr
        rw [← hr]
        rfl
      · rw [Capture.records, get_set_same]
        exact hring.reserve rfl rfl
    · refine ⟨fun r hr => hsource r (by rwa [get_set_other] at hr), ?_, hdrop⟩
      rw [Capture.records, get_set_other]
      exact hring

/-- The open record is replaced, and what its ring holds with it. -/
theorem RecordsAllSound.replace {cu : Capture} {ch : Channel} {r r' : CaptureRecord} {ring : Ring} (h : RecordsAllSound cu)
    (hopened : cu.opened.get ch = some r) (hsource : r'.source = r.source)
    (hring : ring.Carries ch (cu.window.toList ++ cu.queue ++ [r'])) :
    RecordsAllSound { cu with rings := cu.rings.set ch ring, opened := cu.opened.set ch (some r') } := by
  obtain ⟨hslots, hdropped, hchannel⟩ := h
  rw [Capture.slotsUsed_eq cu ch, hopened] at hslots
  refine ⟨?_, hdropped, fun ch' => ?_⟩
  · rw [Capture.slotsUsed_eq _ ch, get_set_same, get_set_other]
    exact hslots
  · obtain ⟨hown, hheld, hdrop⟩ := hchannel ch'
    obtain rfl | rfl := eq_or_eq_otherChannel ch ch'
    · refine ⟨fun x hx => ?_, ?_, hdrop⟩
      · rw [get_set_same, Option.some.injEq] at hx
        rw [← hx, hsource]
        exact hown r hopened
      · rw [Capture.records, get_set_same, get_set_same]
        exact hring
    · refine ⟨fun x hx => hown x (by rwa [get_set_other] at hx), ?_, hdrop⟩
      rw [Capture.records, get_set_other, get_set_other]
      exact hheld

/-- The open record is marked, its bytes staying where they are. -/
theorem RecordsAllSound.relabel {cu : Capture} {ch : Channel} {r r' : CaptureRecord} (h : RecordsAllSound cu)
    (hopened : cu.opened.get ch = some r) (hsource : r'.source = r.source) (hplace : r'.place = r.place)
    (hlength : r'.length = r.length) : RecordsAllSound { cu with opened := cu.opened.set ch (some r') } := by
  have hring := (h.channel ch).ring
  rw [Capture.records, hopened, Option.toList_some, ← List.append_nil (_ ++ [r])] at hring
  have hmarked := hring.congr hsource hplace hlength
  rw [List.append_nil] at hmarked
  have hkept := h.replace hopened hsource hmarked
  have hrings : cu.rings.set ch (cu.rings.get ch) = cu.rings := by cases ch <;> rfl
  rwa [hrings] at hkept

/-- A byte of an open frame is stored behind the others or discarded (R138). -/
theorem RecordsAllSound.storeFrameByte {cu : Capture} (h : RecordsAllSound cu) (ch : Channel) (byte : Byte) :
    RecordsAllSound (storeFrameByte ch byte cu) := by
  cases hopened : cu.opened.get ch with
  | none =>
    rw [Machine.storeFrameByte, hopened]
    exact h
  | some r =>
    obtain ⟨hown, hring, -⟩ := h.channel ch
    rw [Capture.records, hopened, Option.toList_some] at hring
    by_cases hroom : r.flags.truncated = false ∧ (cu.rings.get ch).held.length < 512
    · rw [storeFrameByte_room byte hopened hroom]
      exact h.replace hopened rfl (hring.store (hown r hopened) hroom.2 byte)
    · rw [storeFrameByte_full byte hopened hroom]
      exact h.relabel hopened (r' := { r with flags := { r.flags with truncated := true } }) rfl rfl rfl

theorem storeFrameByte_opened (ch ch' : Channel) (byte : Byte) (cu : Capture) :
    ((Machine.storeFrameByte ch byte cu).opened.get ch').isSome = (cu.opened.get ch').isSome := by
  cases hopened : cu.opened.get ch with
  | none => rw [Machine.storeFrameByte, hopened]
  | some r =>
    have hset : ∀ r' : CaptureRecord, ((cu.opened.set ch (some r')).get ch').isSome = (cu.opened.get ch').isSome := fun r' => by
      obtain rfl | rfl := eq_or_eq_otherChannel ch ch'
      · rw [get_set_same, hopened]
        rfl
      · rw [get_set_other]
    by_cases hroom : r.flags.truncated = false ∧ (cu.rings.get ch).held.length < 512
    · rw [storeFrameByte_room byte hopened hroom]
      exact hset _
    · rw [storeFrameByte_full byte hopened hroom]
      exact hset _

/-- The open record of a frame that ends joins the queue with its bytes (R125, R139). -/
theorem RecordsAllSound.closeOpened {s : State} (h : RecordsAllSound s.cu) (ch : Channel) (cause : EndCause) (flags : FrameFlags) :
    RecordsAllSound (closeOpened ch cause flags s).cu := by
  cases hopened : s.cu.opened.get ch with
  | none =>
    rw [Machine.closeOpened, hopened]
    exact h
  | some r =>
    obtain ⟨hslots, hdropped, hchannel⟩ := h
    rw [Capture.slotsUsed_eq _ ch, hopened, Option.toList_some, List.length_singleton] at hslots
    simp only [Machine.closeOpened, hopened, closeRecord_cu]
    refine ⟨?_, hdropped, fun ch' => ?_⟩
    · rw [Capture.slotsUsed_eq _ ch, get_set_same, get_set_other, List.length_append, Option.toList_none, List.length_nil,
        List.length_singleton]
      omega
    · obtain ⟨hown, hring, hdrop⟩ := hchannel ch'
      have hsource := (hchannel ch).source r hopened
      obtain rfl | hother := eq_or_eq_otherChannel ch ch'
      · refine ⟨fun x hx => ?_, ?_, hdrop⟩
        · rw [get_set_same] at hx
          cases hx
        · rw [Capture.records, hopened, Option.toList_some] at hring
          rw [Capture.records, get_set_same, Option.toList_none, ← List.append_assoc]
          exact Ring.Carries.congr (r := r) (ys := []) (by rwa [List.append_nil]) rfl rfl rfl
      · have hne : (CaptureSource.frame ch) ≠ .frame ch' := by
          subst hother
          cases ch <;> simp [otherChannel]
        subst hother
        refine ⟨fun x hx => hown x (by rwa [get_set_other] at hx), ?_, hdrop⟩
        rw [Capture.records, get_set_other, ← List.append_assoc]
        exact hring.skip (by rw [hsource]; exact hne)

theorem closeOpened_opened (ch ch' : Channel) (cause : EndCause) (flags : FrameFlags) (s : State) :
    (Machine.closeOpened ch cause flags s).cu.opened.get ch' = if ch' = ch then none else s.cu.opened.get ch' := by
  cases hopened : s.cu.opened.get ch with
  | none =>
    simp only [Machine.closeOpened, hopened]
    split_ifs with h
    · rw [h, hopened]
    · rfl
  | some r =>
    simp only [Machine.closeOpened, hopened, closeRecord_cu, get_set]

/-- An abandoned record's slot and bytes are freed (R142). -/
theorem RecordsAllSound.abandon {cu : Capture} (h : RecordsAllSound cu) (ch : Channel) : RecordsAllSound (abandonRecord ch cu) := by
  cases hopened : cu.opened.get ch with
  | none =>
    rw [abandonRecord, hopened]
    exact h
  | some r =>
    obtain ⟨hslots, hdropped, hchannel⟩ := h
    rw [Capture.slotsUsed_eq _ ch, hopened] at hslots
    simp only [abandonRecord, hopened]
    refine ⟨?_, hdropped, fun ch' => ?_⟩
    · rw [Capture.slotsUsed_eq _ ch, get_set_same, get_set_other]
      exact Nat.le_trans (Nat.add_le_add_right (Nat.add_le_add_right (Nat.zero_le _) _) _) hslots
    · obtain ⟨hown, hring, hdrop⟩ := hchannel ch'
      obtain rfl | rfl := eq_or_eq_otherChannel ch ch'
      · refine ⟨fun x hx => ?_, ?_, hdrop⟩
        · rw [get_set_same] at hx
          cases hx
        · rw [Capture.records, hopened, Option.toList_some] at hring
          rw [Capture.records, get_set_same, get_set_same, Option.toList_none, List.append_nil]
          exact hring.freeNewest (hown r hopened)
      · refine ⟨fun x hx => hown x (by rwa [get_set_other] at hx), ?_, hdrop⟩
        rw [Capture.records, get_set_other, get_set_other]
        exact hring

theorem abandonRecord_opened (ch ch' : Channel) (cu : Capture) :
    (abandonRecord ch cu).opened.get ch' = if ch' = ch then none else cu.opened.get ch' := by
  cases hopened : cu.opened.get ch with
  | none =>
    simp only [abandonRecord, hopened]
    split_ifs with h
    · rw [h, hopened]
    · rfl
  | some r => simp only [abandonRecord, hopened, get_set]

/-- A refused reservation is counted, saturating (R136). -/
theorem RecordsAllSound.dropFrame {s : State} (h : RecordsAllSound s.cu) (ch : Channel) : RecordsAllSound (dropFrame ch s).cu := by
  obtain ⟨hslots, hdropped, hchannel⟩ := h
  refine ⟨hslots, hdropped, fun ch' => ?_⟩
  obtain ⟨hown, hring, hdrop⟩ := hchannel ch'
  refine ⟨hown, hring, ?_⟩
  rw [dropFrame_eq, get_set]
  split_ifs
  · exact Nat.min_le_right _ _
  · exact hdrop

theorem RecordsAllSound.dropEdge {s : State} (h : RecordsAllSound s.cu) : RecordsAllSound (dropEdge s).cu :=
  ⟨h.slots, Nat.min_le_right _ _, fun ch =>
    have hchannel := h.channel ch
    ⟨hchannel.source, hchannel.ring, hchannel.dropped⟩⟩

theorem RecordsAllSound.offerEdges {s : State} (h : RecordsAllSound s.cu) (stamp : Stamp) (edges : List (Fin 4 × EdgeDir)) :
    RecordsAllSound (edges.foldl (offerEdge stamp) s).cu := by
  induction edges generalizing s with
  | nil => exact h
  | cons e edges ih =>
    refine ih ?_
    rw [offerEdge]
    split_ifs with hfree
    · exact h.closeEmpty hfree rfl (fun ch hch => CaptureSource.noConfusion hch)
    · exact h.dropEdge

theorem offerEdges_opened (s : State) (stamp : Stamp) (edges : List (Fin 4 × EdgeDir)) :
    (edges.foldl (offerEdge stamp) s).cu.opened = s.cu.opened := by
  induction edges generalizing s with
  | nil => rfl
  | cons e edges ih =>
    refine (ih _).trans ?_
    rw [offerEdge]
    split_ifs
    · rw [closeRecord_cu]
    · rfl

/-! ## The read window (R143, R146) -/

/-- The bytes of the record read before are freed from the oldest end of its ring. -/
theorem discardWindow_eq (cu : Capture) (hstart : ∀ ch, (cu.rings.get ch).start < Config.ringSize) :
    discardWindow cu = { cu with rings := {
      a := cu.rings.a.freeOldest (heldBy .a cu.window.toList)
      b := cu.rings.b.freeOldest (heldBy .b cu.window.toList) } } := by
  have ha := freeOldest_zero (hstart .a)
  have hb := freeOldest_zero (hstart .b)
  simp only [PerChannel.get] at ha hb
  cases hwindow : cu.window with
  | none =>
    have hnone : ∀ ch, heldBy ch cu.window.toList = 0 := fun ch => by rw [hwindow]; rfl
    have hdiscard : discardWindow cu = cu := by rw [discardWindow, hwindow]
    rw [← hwindow, hnone, hnone, ha, hb, hdiscard]
  | some r =>
    have hdiscard : discardWindow cu = discardBytes r cu := by rw [discardWindow, hwindow]
    rw [hdiscard, ← hwindow, discardBytes]
    have hother : ∀ ch, r.source ≠ .frame ch → heldBy ch cu.window.toList = 0 := fun ch h => by
      rw [hwindow]
      exact heldBy_other h
    cases hsource : r.source with
    | edge line dir => simp only [hother, hsource, ha, hb, ne_eq, reduceCtorEq, not_false_eq_true]
    | frame ch =>
      have hown : heldBy ch cu.window.toList = r.length := by
        rw [hwindow]
        exact heldBy_own hsource
      cases ch
      · simp only [hown, hother, hsource, hb, PerChannel.set, PerChannel.get, ne_eq, CaptureSource.frame.injEq, reduceCtorEq,
          not_false_eq_true]
      · simp only [hown, hother, hsource, ha, PerChannel.set, PerChannel.get, ne_eq, CaptureSource.frame.injEq, reduceCtorEq,
          not_false_eq_true]

theorem RecordsAllSound.pop {cu : Capture} {r : CaptureRecord} {rest : List CaptureRecord} (h : RecordsAllSound cu)
    (hqueue : cu.queue = r :: rest) :
    RecordsAllSound { discardWindow cu with window := some r, queue := rest, readIndex := 0 } := by
  obtain ⟨hslots, hdropped, hchannel⟩ := h
  rw [discardWindow_eq cu fun ch => (hchannel ch).ring.start]
  refine ⟨?_, hdropped, fun ch => ?_⟩
  · simp only [Capture.slotsUsed, hqueue, List.length_cons] at hslots ⊢
    omega
  · obtain ⟨hown, hring, hdrop⟩ := hchannel ch
    refine ⟨hown, ?_, hdrop⟩
    have hread : ((cu.rings.get ch).freeOldest (heldBy ch cu.window.toList)).Carries ch
        (r :: rest ++ (cu.opened.get ch).toList) := by
      refine Ring.Carries.freeOldest ?_
      rwa [Capture.records, hqueue, List.append_assoc] at hring
    cases ch
    exacts [hread, hread]

theorem openLength_eq {cu : Capture} {ch : Channel} (h : ∀ r, cu.opened.get ch = some r → r.source = .frame ch) :
    cu.openLength ch = heldBy ch (cu.opened.get ch).toList := by
  cases hopened : cu.opened.get ch with
  | none => simp [Capture.openLength, hopened, heldBy]
  | some r => simp [Capture.openLength, hopened, heldBy, h r hopened]

theorem RecordsAllSound.flush {cu : Capture} (h : RecordsAllSound cu) :
    RecordsAllSound { cu with
      queue := [], window := none, readIndex := 0, dropped := { a := 0, b := 0 }, droppedEv := 0,
      rings := { a := cu.rings.a.keepNewest (cu.openLength .a), b := cu.rings.b.keepNewest (cu.openLength .b) } } := by
  obtain ⟨hslots, -, hchannel⟩ := h
  refine ⟨?_, Nat.zero_le _, fun ch => ?_⟩
  · simp only [Capture.slotsUsed, List.length_nil] at hslots ⊢
    omega
  · obtain ⟨hown, hring, -⟩ := hchannel ch
    have hkept : ((cu.rings.get ch).keepNewest (cu.openLength ch)).Carries ch (cu.opened.get ch).toList := by
      have hfreed : (cu.rings.get ch).held.length - cu.openLength ch = heldBy ch (cu.window.toList ++ cu.queue) := by
        rw [hring.count, Capture.records, heldBy_append, openLength_eq hown, Nat.add_sub_cancel]
      rw [Ring.keepNewest, hfreed]
      exact hring.freeOldest
    refine ⟨hown, ?_, ?_⟩
    · cases ch
      exacts [hkept, hkept]
    · cases ch
      exacts [Nat.zero_le _, Nat.zero_le _]

end Sys2Proof.Machine
end

section
/-! SUPPORT. The Capture Unit's invariant beside the receivers (R114, R120 to R127): what each effect does to a frame and to the
record that is open for it. -/

namespace Sys2Proof.Machine

/-! ## What leaves the receivers' frames as they are -/

/-- Every receiver's frame part and state are as before. -/
def SameFrames (s t : State) : Prop := ∀ ch, (t.rx ch).frame = (s.rx ch).frame ∧ (t.rx ch).state = (s.rx ch).state

theorem SameFrames.of_rx {s t : State} (h : ∀ ch, t.rx ch = s.rx ch) : SameFrames s t := fun ch => by simp [h ch]

theorem SameFrames.of_ser {s t : State} (h : t.ser = s.ser) : SameFrames s t := .of_rx fun ch => rx_of_ser h ch

theorem SameFrames.trans {s t u : State} (h : SameFrames s t) (h' : SameFrames t u) : SameFrames s u := fun ch =>
  ⟨(h' ch).1.trans (h ch).1, (h' ch).2.trans (h ch).2⟩

theorem SameFrames.of_withTx (s : State) (ch : Channel) (t : Transmitter) : SameFrames s (s.withTx ch t) :=
  .of_rx fun ch' => withTx_rx s ch ch' t

theorem SameFrames.of_withRx {s : State} {ch : Channel} {r : Receiver} (hframe : r.frame = (s.rx ch).frame)
    (hstate : r.state = (s.rx ch).state) : SameFrames s (s.withRx ch r) := fun ch' => by
  obtain rfl | rfl := eq_or_eq_otherChannel ch ch'
  · rw [withRx_rx]
    exact ⟨hframe, hstate⟩
  · rw [withRx_rx_other]
    exact ⟨rfl, rfl⟩

/-- A looped receiver that hears what begins keeps its frame. -/
theorem SameFrames.of_putOnLine (s : State) (ch : Channel) (t : Transmitter) : SameFrames s (putOnLine ch t s) := by
  unfold putOnLine
  split_ifs
  · refine SameFrames.trans (.of_withTx s ch t) (.of_withRx ?_ ?_)
    · rw [withTx_rx]
      rfl
    · rw [withTx_rx]
      rfl
  · exact .of_withTx s ch t

theorem SameFrames.of_joinQueue (ch : Channel) (r : Request) (s : State) : SameFrames s (joinQueue ch r s) := by
  rw [joinQueue_eq]
  split_ifs
  · exact .of_putOnLine _ _ _
  · exact .of_withTx _ _ _

theorem SameFrames.of_headLeaves (s : State) (ch : Channel) (body : Fin 32 → Source → NoticeBody) :
    SameFrames s (headLeaves ch body s) := by
  cases hqueue : (s.tx ch).queue with
  | nil =>
    rw [headLeaves, hqueue]
    exact .of_ser rfl
  | cons r rest =>
    obtain ⟨x, -, -, hser⟩ := headLeaves_tx hqueue body
    exact SameFrames.trans (.of_putOnLine s ch x) (.of_ser hser)

theorem SameFrames.of_bringTicks (s : State) : SameFrames s (bringTicks s) := by
  obtain ⟨-, heq⟩ | ⟨-, -, -, hrest⟩ := bringTicks_cases s
  · rw [heq]
    exact .of_ser rfl
  · exact .of_rx fun ch => (hrest ch).1

theorem SameFrames.of_takeOccurrence (i : Fin 64) (rest : List (Fin 64)) (s : State) :
    SameFrames s (takeOccurrence i rest s) := by
  obtain ⟨hser, -⟩ | ⟨ch, m, source, notify, -, hser, -⟩ := takeOccurrence_sends i rest s
  · exact .of_ser hser
  · exact SameFrames.trans (SameFrames.of_joinQueue ch (.send m source notify) s) (.of_ser hser)

theorem SameFrames.of_issueTick (ev : BitVec 4) (order : TickOrder) (s : State) : SameFrames s (issueTick ev order s) := by
  have htime : SameFrames s (tickTimeBase s) := .of_ser (tickTimeBase_ser s)
  by_cases hup : (tickTimeBase s).mainUp
  · simp only [issueTick, whenMain_up _ _ hup]
    refine htime.trans (.trans ?_ (.of_bringTicks _))
    exact SameFrames.trans (.of_withTx _ .a _) (.trans (.of_withTx _ .b _) (.of_ser rfl))
  · simp only [issueTick, whenMain_down _ _ hup]
    exact htime

theorem TransmitEffect.sameFrames {s t : State} {ch : Channel} (h : TransmitEffect s ch t) : SameFrames s t := by
  have hsettled := SameFrames.of_withTx s ch (s.tx ch).settle
  cases h with
  | settles => exact hsettled
  | goesOn x => exact hsettled.trans (.of_putOnLine _ _ _)
  | leaves body => exact hsettled.trans (.of_headLeaves _ _ _)
  | sends m source notify => exact SameFrames.trans (SameFrames.of_joinQueue ch (.send m source notify) s) (.of_ser rfl)
  | breaks => exact .of_joinQueue _ _ _
  | aborts => exact .of_withTx _ _ _
  | resets => exact SameFrames.trans (.of_withTx s ch _) (.of_ser (resetTransmitter_ser ch s))
  | configures config r _ hrx =>
    intro ch'
    obtain rfl | rfl := eq_or_eq_otherChannel ch ch'
    · simpa only [State.rx, State.chan, get_set_same] using! hrx
    · simp only [State.rx, State.chan, get_set_other, and_self]

theorem FrameSound.congr {r x : Receiver} {o p : Option CaptureRecord} (h : FrameSound r o)
    (hsame : x.frame = r.frame ∧ x.state = r.state) (hopened : p.isSome = o.isSome) : FrameSound x p := by
  obtain ⟨hframe, hstate⟩ := hsame
  exact ⟨by rw [hframe, hopened]; exact h.opened, by rw [hframe, hstate]; exact h.unframed⟩

/-- The invariant says nothing of the read index (R144). -/
def Capture.unread (cu : Capture) : Capture := { cu with readIndex := 0 }

theorem CaptureSound.congr_unread {s t : State} (h : CaptureSound s) (hcu : t.cu.unread = s.cu.unread)
    (hframes : SameFrames s t) : CaptureSound t := by
  have hunread : ∀ cu : Capture, RecordsAllSound cu.unread ↔ RecordsAllSound cu := fun cu =>
    ⟨fun ⟨hslots, hdropped, hchannel⟩ => ⟨hslots, hdropped, fun ch =>
        ⟨(hchannel ch).source, (hchannel ch).ring, (hchannel ch).dropped⟩⟩,
      fun ⟨hslots, hdropped, hchannel⟩ => ⟨hslots, hdropped, fun ch =>
        ⟨(hchannel ch).source, (hchannel ch).ring, (hchannel ch).dropped⟩⟩⟩
  rw [captureSound_iff] at h ⊢
  obtain ⟨hrecords, hframe⟩ := h
  refine ⟨by rwa [← hunread, hcu, hunread], fun ch => (hframe ch).congr (hframes ch) ?_⟩
  have hopened := congrArg (fun cu => (cu.opened.get ch).isSome) hcu
  exact hopened

theorem CaptureSound.congr {s t : State} (h : CaptureSound s) (hcu : t.cu = s.cu) (hframes : SameFrames s t) :
    CaptureSound t := h.congr_unread (congrArg Capture.unread hcu) hframes

/-! ## The events of a receiver -/

theorem frameSound_none {r : Receiver} (h : r.frame = .none) : FrameSound r none := ⟨by simp [h], fun _ => h⟩

/-- What the unit holds after an event of one channel, with that channel's frame and the other's as before. -/
theorem captureSound_of_channel {s t : State} {ch : Channel} (h : CaptureSound s) (hrecords : RecordsAllSound t.cu)
    (hthis : FrameSound (t.rx ch) (t.cu.opened.get ch))
    (hother : t.rx (otherChannel ch) = s.rx (otherChannel ch) ∧
      t.cu.opened.get (otherChannel ch) = s.cu.opened.get (otherChannel ch)) : CaptureSound t := by
  refine (captureSound_iff t).2 ⟨hrecords, fun ch' => ?_⟩
  obtain rfl | rfl := eq_or_eq_otherChannel ch ch'
  · exact hthis
  · rw [hother.1, hother.2]
    exact ((captureSound_iff s).1 h).2 _

theorem startFrame_captureSound {s : State} {ch : Channel} {r : Receiver} (h : CaptureSound s) (hstate : r.state = .inChar)
    (hframe : (s.rx ch).frame = .none) : CaptureSound (startFrame ch (s.withRx ch r)) := by
  obtain ⟨hrecords, hframes⟩ := (captureSound_iff s).1 h
  have hnone : s.cu.opened.get ch = none := by
    have hopened := (hframes ch).opened
    rw [hframe] at hopened
    exact Option.not_isSome_iff_eq_none.1 (mt hopened.2 (by decide))
  unfold startFrame
  simp only [withRx_rx, withRx_withRx, withRx_cu]
  split_ifs with hfree
  · refine captureSound_of_channel (ch := ch) h (hrecords.reserve hfree hnone _) ?_ ⟨withRx_rx_other s ch _, get_set_other ..⟩
    refine ⟨?_, fun hidle => ?_⟩
    · rw [get_set_same]
      exact iff_of_true (congrArg Receiver.frame (withRx_rx s ch _)) rfl
    · rw [State.rx, State.chan] at hidle
      simp [State.withRx, hstate] at hidle
  · refine captureSound_of_channel (ch := ch) h (hrecords.dropFrame ch) ?_ ⟨withRx_rx_other s ch _, rfl⟩
    rw [rx_of_ser (dropFrame_ser _ _), withRx_rx]
    refine ⟨?_, ?_⟩
    · exact iff_of_false (by simp) (by simp [dropFrame_eq, hnone])
    · simp [hstate]

theorem endFrame_captureSound {s : State} {ch : Channel} (cause : EndCause) (hrecords : RecordsAllSound s.cu)
    (hopened : (s.rx ch).frame = .opened ↔ (s.cu.opened.get ch).isSome = true)
    (hother : FrameSound (s.rx (otherChannel ch)) (s.cu.opened.get (otherChannel ch))) : CaptureSound (endFrame ch cause s) := by
  have hser := endFrame_ser (s := s) (ch := ch) cause
  have hrx : (endFrame ch cause s).rx ch = (s.rx ch).cleared cause.leaves := by
    rw [rx_of_ser hser, withRx_rx]
  have hrxother : (endFrame ch cause s).rx (otherChannel ch) = s.rx (otherChannel ch) := by
    rw [rx_of_ser hser, withRx_rx_other]
  obtain ⟨hsound, hthis, hkept⟩ : RecordsAllSound (endFrame ch cause s).cu ∧ (endFrame ch cause s).cu.opened.get ch = none ∧
      (endFrame ch cause s).cu.opened.get (otherChannel ch) = s.cu.opened.get (otherChannel ch) := by
    simp only [endFrame, withRx_cu]
    by_cases hframe : (s.rx ch).frame = .opened
    · have hne : otherChannel ch ≠ ch := by cases ch <;> decide
      rw [if_pos hframe, closeOpened_opened, closeOpened_opened, if_pos rfl, if_neg hne]
      exact ⟨hrecords.closeOpened ch cause _, rfl, rfl⟩
    · rw [if_neg hframe]
      exact ⟨hrecords, Option.not_isSome_iff_eq_none.1 (mt hopened.2 hframe), rfl⟩
  refine (captureSound_iff _).2 ⟨hsound, fun ch' => ?_⟩
  obtain rfl | rfl := eq_or_eq_otherChannel ch ch'
  · rw [hthis, hrx]
    exact frameSound_none rfl
  · rw [hkept, hrxother]
    exact hother

theorem characterTaken_cu (s : State) (ch : Channel) (r : Receiver) (byte : Byte) :
    (s.characterTaken ch r byte).cu = if r.frame = .opened then storeFrameByte ch byte s.cu else s.cu := by
  unfold State.characterTaken
  split_ifs <;> rfl

theorem takeCharacter_captureSound {s : State} {ch : Channel} {r : Receiver} (h : CaptureSound s)
    (hframe : r.frame = (s.rx ch).frame) (byte : Byte) (parityWrong stopBit : Bool) :
    CaptureSound (takeCharacter ch byte parityWrong stopBit (s.withRx ch r)) := by
  obtain ⟨hrecords, hframes⟩ := (captureSound_iff s).1 h
  have hsound : RecordsAllSound (s.characterTaken ch (r.counted parityWrong stopBit) byte).cu := by
    rw [characterTaken_cu]
    split_ifs
    · exact hrecords.storeFrameByte ch byte
    · exact hrecords
  have hsome : ∀ ch', ((s.characterTaken ch (r.counted parityWrong stopBit) byte).cu.opened.get ch').isSome =
      (s.cu.opened.get ch').isSome := fun ch' => by
    rw [characterTaken_cu]
    split_ifs
    · exact storeFrameByte_opened ch ch' byte s.cu
    · rfl
  have hrx := characterTaken_rx s ch (r.counted parityWrong stopBit) byte
  have hopened : ((s.characterTaken ch (r.counted parityWrong stopBit) byte).rx ch).frame = .opened ↔
      ((s.characterTaken ch (r.counted parityWrong stopBit) byte).cu.opened.get ch).isSome = true := by
    rw [hrx, hsome]
    exact hframe ▸ (hframes ch).opened
  have hother : FrameSound ((s.characterTaken ch (r.counted parityWrong stopBit) byte).rx (otherChannel ch))
      ((s.characterTaken ch (r.counted parityWrong stopBit) byte).cu.opened.get (otherChannel ch)) := by
    rw [rx_of_ser (characterTaken_ser s ch _ byte), withRx_rx_other]
    exact (hframes _).congr ⟨rfl, rfl⟩ (hsome _)
  rw [takeCharacter_eq]
  cases (r.counted parityWrong stopBit).endsWith byte with
  | some cause => exact endFrame_captureSound cause hsound hopened hother
  | none =>
    refine (captureSound_iff _).2 ⟨hsound, fun ch' => ?_⟩
    obtain rfl | rfl := eq_or_eq_otherChannel ch ch'
    · refine ⟨hopened, fun hstate => ?_⟩
      rw [Option.elim_none, hrx] at hstate
      exact absurd hstate (by simp [Receiver.counted])
    · exact hother

theorem ReceiveEffect.captureSound {s t : State} {ch : Channel} (h : ReceiveEffect s ch t) (hs : CaptureSound s) :
    CaptureSound t := by
  obtain ⟨hrecords, hframes⟩ := (captureSound_iff s).1 hs
  have hother : ∀ r, (s.withRx ch r).rx (otherChannel ch) = s.rx (otherChannel ch) := fun r => withRx_rx_other s ch r
  cases h with
  | moves r hkeeps =>
    obtain ⟨hframe, hstate⟩ := hkeeps
    refine captureSound_of_channel hs hrecords ⟨?_, fun hunframed => ?_⟩ ⟨hother r, rfl⟩
    · rw [withRx_rx, hframe]
      exact (hframes ch).opened
    · rw [withRx_rx] at hunframed ⊢
      rw [hframe]
      obtain hidle | hbrk | hnone := hstate hunframed
      exacts [(hframes ch).unframed (.inl hidle), (hframes ch).unframed (.inr hbrk), hnone]
  | starts r hstate hframe => exact startFrame_captureSound hs hstate hframe
  | takes byte wrong stopBit r hframe => exact takeCharacter_captureSound hs hframe byte wrong stopBit
  | ends cause r hframe =>
    refine endFrame_captureSound cause hrecords ?_ ?_
    · rw [withRx_rx, hframe]
      exact (hframes ch).opened
    · rw [hother]
      exact hframes _
  | breaks stamp hidle =>
    have hunframed := (hframes ch).unframed (.inl hidle)
    have hnone : s.cu.opened.get ch = none :=
      Option.not_isSome_iff_eq_none.1 (mt (hframes ch).opened.2 (by rw [hunframed]; decide))
    split_ifs with hfree
    · refine captureSound_of_channel (ch := ch) hs ?_ ?_ ⟨?_, ?_⟩
      · refine hrecords.closeEmpty hfree rfl fun ch' hch' => ?_
        obtain rfl := CaptureSource.frame.inj hch'
        exact ⟨rfl, hnone⟩
      · rw [withRx_rx, withRx_cu, closeRecord_cu, hnone]
        exact frameSound_none hunframed
      · rw [withRx_rx_other, rx_of_ser (closeRecord_ser _ _)]
      · rw [withRx_cu, closeRecord_cu]
    · refine captureSound_of_channel (ch := ch) hs (hrecords.dropFrame ch) ?_ ⟨?_, rfl⟩
      · rw [withRx_rx]
        exact hnone ▸ frameSound_none hunframed
      · rw [withRx_rx_other, rx_of_ser (dropFrame_ser _ _)]
  | abandons r hframe =>
    have hne : otherChannel ch ≠ ch := by cases ch <;> decide
    refine captureSound_of_channel (ch := ch) hs (hrecords.abandon ch) ?_ ⟨hother r, ?_⟩
    · rw [abandonRecord_opened, if_pos rfl]
      exact frameSound_none ((congrArg Receiver.frame (withRx_rx s ch r)).trans hframe)
    · rw [abandonRecord_opened, if_neg hne]

/-! ## Every step -/

theorem captureSound_reset {s : State} (hcu : s.cu = .reset) (hser : s.ser = .reset) : CaptureSound s := by
  rw [captureSound_iff, hcu]
  have hempty : ∀ ch, Capture.reset.opened.get ch = none ∧ Capture.reset.rings.get ch = Ring.reset ∧
      Capture.reset.dropped.get ch = 0 := fun ch => by cases ch <;> decide
  refine ⟨⟨by decide, by decide, fun ch => ?_⟩, fun ch => ?_⟩
  all_goals
    obtain ⟨hopened, hring, hdropped⟩ := hempty ch
  · refine ⟨by simp [hopened], ?_, by simp [hdropped]⟩
    rw [Capture.records, hopened, hring]
    exact ⟨rfl, by decide, trivial, by decide⟩
  · rw [hopened, State.rx, State.chan, hser]
    cases ch
    exacts [frameSound_none rfl, frameSound_none rfl]

theorem CaptureEffect.captureSound {s t : State} (h : CaptureEffect s t) (hs : CaptureSound s) : CaptureSound t := by
  obtain ⟨hrecords, hframes⟩ := (captureSound_iff s).1 hs
  rw [captureSound_iff]
  cases h with
  | edges stamp edges =>
    refine ⟨hrecords.offerEdges stamp edges, fun ch => ?_⟩
    rw [offerEdges_opened, CaptureEffect.frame (.edges stamp edges)]
    exact hframes ch
  | pops r rest hqueue =>
    refine ⟨hrecords.pop hqueue, fun ch => ?_⟩
    rw [discardWindow_eq s.cu fun ch => (hrecords.channel ch).ring.start]
    exact hframes ch
  | flushes => exact ⟨hrecords.flush, hframes⟩

theorem Effect.captureSound {s t : State} (h : Effect s t) (hs : CaptureSound s) : CaptureSound t := by
  cases h with
  | quiet => exact hs
  | lineWrite | detaches => exact hs.congr rfl (.of_ser rfl)
  | time h => rw [h.frame]; exact hs.congr rfl (.of_ser rfl)
  | tick ev order => exact hs.congr (by rw [issueTick_frame]) (.of_issueTick ev order s)
  | pulseEnd =>
    have hsettled : SameFrames s { s with du := s.du.settle } := .of_ser rfl
    exact hs.congr (by rw [pulseEnded_frame]) (hsettled.trans (.of_bringTicks _))
  | agenda h => rw [h.frame]; exact hs.congr rfl (.of_ser rfl)
  | occurrence i rest =>
    refine hs.congr ?_ (.trans (.of_takeOccurrence i rest s) (.of_bringTicks _))
    rw [takeOccurrence_bringTicks_frame]
  | memory h => rw [h.frame]; exact hs.congr rfl (.of_ser rfl)
  | transmit ch h => exact hs.congr (by rw [h.frame]) h.sameFrames
  | receive ch h => exact h.captureSound hs
  | watchAfresh a b =>
    have ha : SameFrames s (s.withRx .a ((s.rx .a).watchAfresh a)) := .of_withRx rfl rfl
    exact hs.congr rfl (ha.trans (.of_withRx rfl rfl))
  | capture h => exact h.captureSound hs
  | notices h => rw [h.frame]; exact hs.congr rfl (.of_ser rfl)
  | resets => exact captureSound_reset rfl rfl

theorem SupplyEffect.captureSound {s t : State} (h : SupplyEffect s t) (hs : CaptureSound s) : CaptureSound t := by
  cases h with
  | powerLost | mainReset => exact captureSound_reset rfl rfl
  | releases | backupLost => exact hs.congr rfl (.of_ser rfl)
  | nothing => exact hs

theorem State.alike.unread {s t : State} (h : s.alike t) : t.cu.unread = s.cu.unread := congrArg State.cu h

/-- Settles O58: each effect on a record leaves its bytes where they are, adds to the newest end or frees from an end. -/
theorem everyStepKeepsCaptureSound : Obligations.EveryStepKeepsCaptureSound := by
  intro s t hs h
  refine step_keeps (P := CaptureSound) (fun _ _ h => ?_) (fun halike hs => ?_) SupplyEffect.captureSound
    Effect.captureSound hs h
  · exact h.congr rfl (.of_ser rfl)
  · exact hs.congr_unread halike.unread (.of_rx halike.rx)

end Sys2Proof.Machine
end

section
/-! SUPPORT. The command port and the bus: rows as bus cycles, offered commands, and what neither the bus nor an event reaches
while the main domain is down (R180 to R191). -/

namespace Sys2Proof.Machine

/-! ## Steps (logs 1 and 4) -/

/-- Settles O1. -/
theorem stepRunsFrontCommand : Obligations.StepRunsFrontCommand := by
  intro c rest s h
  rw [step, h]

/-- Settles O2: an oscillator period stops short of the pass or reaches it. -/
theorem idleStepIsOneOscillatorPeriod : Obligations.IdleStepIsOneOscillatorPeriod := by
  intro s hpending
  have hstep : step s = .next (oscillatorPeriod s) := by rw [step, hpending]
  refine ⟨fun hlost => ?_, fun hheld hphase => ?_, fun hheld hphase => ?_⟩
  · rw [hstep, oscillatorPeriod, if_neg (by simp [hlost]), passPeriods, if_neg (by simp [hlost])]
  · rw [hstep, oscillatorPeriod, if_neg (by omega), passPeriods_short _ _ _ _ (by omega), if_pos hheld]
  · refine ⟨Config.idleLevels s.idleTicks, idleTickOrder s.idleTicks, rfl, ?_⟩
    rw [hstep, oscillatorPeriod, if_pos ⟨hheld, hphase⟩]
    rfl

/-- Settles O4. -/
theorem coldStartCommonRegion : Obligations.ColdStartCommonRegion := by
  unfold Obligations.ColdStartCommonRegion
  decide

theorem mainAlive_iff (s : State) : s.mainAlive = true ↔ s.mainUp := by simp [State.mainAlive]

/-! ## Rows as commands offered and as bus cycles -/

/-- Every command of the code table is offered to the port (R187). -/
theorem hostRows_offers {c : Instr} (h : c ∈ hostRows) : ∃ f, ∀ s, exec c s = .next (offer s f) := by
  revert h
  cases c with
  | coldStart | mainPowerUp | vmainFall | resetNAssert | resetNRelease | tick | pulseEnd | occurrence | txCharacterEnd
  | txBreakTimeEnd | txLeadEnd | rxFall | rxRise | markQualified | startBitSample | rxCharacterComplete | gapExpiry | breakDetected
  | edgeGroup | armRequestGroup | agendaCommandCompletion | unknownCommandCode | resultRead | mmPtrLowWrite | mmPtrHighWrite
  | mmPtrLowRead | mmDataRead | mmDataWrite | capDataRead | faultWrite | faultEnableWrite | causeEnableWrite
  | noticeThresholdWrite | registerWrite | backupDomainLoss => simp [hostRows]
  | _ => exact fun _ => ⟨_, fun _ => rfl⟩

theorem exec_commandOfCode_offers (code : Byte) : ∃ f, ∀ s, exec (commandOfCode code) s = .next (offer s f) := by
  obtain h | h := commandOfCode_cases code
  · exact hostRows_offers h
  · refine ⟨fun s => complete (s, .badCommand), fun s => ?_⟩
    rw [exec_commandOfCode, offerCode_of_unknown h]
    rfl

theorem registerWrite_onBus (cycle : WriteCycle) (loc : Location) (byte : Byte) :
    ∃ f, ∀ s, exec (.registerWrite cycle loc byte) s = .next (onBus s f) := by
  cases cycle with
  | notSelected | bothStrobes => exact ⟨id, fun _ => rfl⟩
  | taken =>
    show ∃ f, ∀ s, writeLocation loc byte s = .next (onBus s f)
    unfold writeLocation
    split
    case h_3 =>
      obtain ⟨f, hf⟩ := exec_commandOfCode_offers byte
      exact ⟨_, fun s => (exec_commandOfCode byte s).symm.trans (hf s)⟩
    all_goals exact ⟨_, fun _ => rfl⟩

/-! ## The port (R187, R189, R191) -/

theorem acceptAgenda_idle {s : State} (h : s.portReady) (command : AgendaCommand) : acceptAgenda command s =
    { s with
      biu := { s.biu with cmdDone := false }
      au := { s.au with inFlight := some { command := command, arg := s.biu.arg, staging := s.au.staging } } } :=
  offer_idle s _ h.1 h.2

/-- Settles O14: one acceptance for the seven. -/
theorem agendaCommandsAreAccepted : Obligations.AgendaCommandsAreAccepted := by
  intro s h
  have haccept (command : AgendaCommand) : ∃ t, (Host.Outcome.next (acceptAgenda command s) : Answer) = .next t ∧
      t.portBusy = true ∧ t = { s with
        biu := { s.biu with cmdDone := false }
        au := { s.au with inFlight := some { command := command, arg := s.biu.arg, staging := s.au.staging } } } :=
    ⟨_, congrArg _ (acceptAgenda_idle h command), rfl, rfl⟩
  simp only [List.forall_mem_cons]
  exact ⟨haccept .load, haccept .read, haccept .release, haccept .armAt, haccept .armIn, haccept .disarm, haccept .clear, by simp⟩

theorem commandOfCode_of_not_listed {code : Byte} (h : commandCodes.contains code = false) :
    commandOfCode code = .unknownCommandCode code := by
  revert h
  revert code
  decide

/-- Settles O51. -/
theorem unknownCodeIsBadCommand : Obligations.UnknownCodeIsBadCommand := by
  refine ⟨fun s code h hcode => ?_, rfl⟩
  refine (offerCode_of_unknown (commandOfCode_of_not_listed hcode) s).trans ?_
  exact congrArg Host.Outcome.next (atOnce_answered h rfl)

theorem setFault_cmdOverrun (s : State) :
    setFault .cmdOverrun s = { s with niu := { s.niu with faults := s.niu.faults ||| 1 } } := rfl

theorem exec_commandOfCode_busy {s : State} (h : s.busReady) (hbusy : s.au.inFlight.isSome = true) (code : Byte) :
    exec (commandOfCode code) s = .next { s with niu := { s.niu with faults := s.niu.faults ||| 1 } } := by
  obtain ⟨f, hf⟩ := exec_commandOfCode_offers code
  rw [hf, offer_busy s f h hbusy, setFault_cmdOverrun]

theorem exec_registerWrite_command (s : State) (code : Byte) :
    exec (.registerWrite .taken 0x03 code) s = exec (commandOfCode code) s := (exec_commandOfCode code s).symm

theorem completeAgenda_with_niu (s : State) (niu : Notices) :
    completeAgenda { s with niu := niu } = { completeAgenda s with niu := niu } := by
  unfold completeAgenda
  dsimp only
  split <;> rfl

/-- Settles O53: every command is offered to the port, and a completion neither reads nor writes the fault flags. -/
theorem busyPortRefusesWithOverrun : Obligations.BusyPortRefusesWithOverrun := by
  intro s f code h hbusy
  have hrefused := exec_commandOfCode_busy h (by simp [hbusy]) code
  refine ⟨(exec_registerWrite_command s code).trans hrefused, hrefused, fun t ht => ?_⟩
  have hcomplete {u : State} (hu : u.mainUp) : exec .agendaCommandCompletion u = .next (completeAgenda u) :=
    congrArg Host.Outcome.next (whenMain_up u _ hu)
  rw [hcomplete ⟨h.1, h.2.1⟩] at ht
  obtain rfl := Host.Outcome.next.inj ht
  refine ⟨?_, ?_⟩
  · rw [completeAgenda, hbusy]
    exact ⟨h, rfl⟩
  · refine (hcomplete (u := { s with niu := { s.niu with faults := s.niu.faults ||| 1 } }) ⟨h.1, h.2.1⟩).trans ?_
    exact congrArg _ (completeAgenda_with_niu s _)

/-! ## The bus (R181 to R183) -/

theorem onBus_down {s : State} (h : ¬ s.mainUp) (f : State → State) : onBus s f = s := by
  obtain ⟨-, heq⟩ | ⟨-, hup, -⟩ | ⟨hup, -⟩ := onBus_cases s f
  · exact heq
  · exact absurd ((mainAlive_iff s).1 hup) h
  · exact absurd ((mainAlive_iff s).1 hup) h

theorem onBus_skips {s : State} (h : s.mainUp) {n : Nat} (hskip : s.power.skipCycles = n + 1) (f : State → State) :
    onBus s f = { s with power := { s.power with skipCycles := n } } := by
  obtain ⟨hdown, -⟩ | ⟨m, -, hm, heq⟩ | ⟨-, hnone, -⟩ := onBus_cases s f
  · rw [(mainAlive_iff s).2 h] at hdown
    exact Bool.noConfusion hdown
  · obtain rfl : m = n := by omega
    exact heq
  · omega

theorem drives_of_not_busReady {s : State} (h : ¬ s.busReady) (half : Bool) (loc : Location) : s.drives half loc = none := by
  have hnot : s.busTaken = false := Bool.not_eq_true _ ▸ mt (busTaken_iff s).1 h
  simp [State.drives, hnot]

/-- A read cycle that the bus does not take gives the host nothing. -/
theorem readCycle_ignored {s t : State} (h : ¬ s.busReady) (hbus : ∀ f, onBus s f = t) (cycle : ReadCycle) (loc : Location)
    (side : State → State) : readCycle s cycle loc side = { t with hostRead := none } := by
  have hdrives := drives_of_not_busReady h
  cases cycle <;> simp only [readCycle, readDriven, hbus, hdrives]

/-- What every bus cycle does where the bus does not take it. -/
theorem cycles_ignored {s t : State} (h : ¬ s.busReady) (hbus : ∀ f, onBus s f = t) :
    (∀ half loc, s.drives half loc = none) ∧
    (∀ code cycle loc byte, exec (commandOfCode code) s = .next t ∧ exec (.registerWrite cycle loc byte) s = .next t) ∧
    (∀ byte, ∀ c ∈ [Instr.mmPtrLowWrite byte, .mmPtrHighWrite byte, .mmDataWrite byte, .faultWrite byte,
      .faultEnableWrite byte, .causeEnableWrite byte, .noticeThresholdWrite byte], exec c s = .next t) ∧
    (∀ cycle, ∀ c ∈ [Instr.mmDataRead cycle, .capDataRead cycle, .mmPtrLowRead cycle, .resultRead cycle .none],
      exec c s = .next { t with hostRead := none }) := by
  have hwrite (f : State → State) : (Host.Outcome.next (onBus s f) : Answer) = .next t := congrArg _ (hbus f)
  have hread (cycle : ReadCycle) (loc : Location) (side : State → State) :
      (Host.Outcome.next (readCycle s cycle loc side) : Answer) = .next { t with hostRead := none } :=
    congrArg _ (readCycle_ignored h hbus cycle loc side)
  refine ⟨drives_of_not_busReady h, fun code cycle loc byte => ⟨?_, ?_⟩, fun byte => ?_, fun cycle => ?_⟩
  · obtain ⟨f, hf⟩ := exec_commandOfCode_offers code
    exact (hf s).trans (hwrite _)
  · obtain ⟨f, hf⟩ := registerWrite_onBus cycle loc byte
    exact (hf s).trans (hwrite f)
  · simp only [List.forall_mem_cons]
    exact ⟨hwrite _, hwrite _, hwrite _, hwrite _, hwrite _, hwrite _, hwrite _, by simp⟩
  · simp only [List.forall_mem_cons]
    exact ⟨hread .., hread .., hread .., hread .., by simp⟩

/-- Settles O54: a cycle that the bus does not take is ignored, and no event reaches a block that is down. -/
theorem busIsIgnoredWhileMainDomainIsDown : Obligations.BusIsIgnoredWhileMainDomainIsDown := by
  refine ⟨fun s u n hup hskip hu => ?_, fun s hdown => ?_⟩
  · subst hu
    refine ⟨?_, cycles_ignored (fun h => ?_) fun f => onBus_skips hup hskip f⟩
    · rintro rfl
      exact ⟨hup.1, hup.2, rfl⟩
    · exact absurd (hskip.symm.trans h.2.2) (Nat.succ_ne_zero n)
  · have hevent (f : State → State) : (Host.Outcome.next (whenMain s f) : Answer) = .next s :=
      congrArg _ (whenMain_down s f hdown)
    have hlistens (ch : Channel) (f : State → State) :
        (Host.Outcome.next (whenListening ch s f) : Answer) = .next s := hevent _
    obtain ⟨hdrives, hcommands, hwrites, hreads⟩ :=
      cycles_ignored (fun h => hdown ⟨h.1, h.2.1⟩) fun f => onBus_down hdown f
    refine ⟨?_, hdrives, hcommands, hwrites, hreads, ?_, fun ch fall level data parityBit stopBit => ?_⟩
    · have halive : (s.power.vmainGood && s.power.resetHigh) = false := Bool.not_eq_true _ ▸ mt (mainAlive_iff s).1 hdown
      rw [State.irqAsserted, halive, Bool.false_and]
    · simp only [List.forall_mem_cons]
      exact ⟨hevent _, hevent _, hevent _, hevent _, hevent _, by simp⟩
    · simp only [List.forall_mem_cons]
      exact ⟨hevent _, hevent _, hevent _, hlistens .., hlistens .., hlistens .., hlistens .., hlistens .., hlistens ..,
        hlistens .., by simp⟩

/-! ## MM_PTR (R88) -/

theorem toNat_append_eq {m n : Nat} (x : BitVec m) (y : BitVec n) : (x ++ y).toNat = x.toNat * 2 ^ n + y.toNat := by
  rw [BitVec.toNat_append, ← Nat.shiftLeft_add_eq_or_of_lt y.isLt, Nat.shiftLeft_eq]

theorem pointer_high_toNat (p : BitVec 11) : (p.extractLsb' 8 3).toNat = p.toNat / 256 := by
  rw [BitVec.extractLsb'_toNat, Nat.shiftRight_eq_div_pow, Nat.mod_eq_of_lt]
  have hlt : p.toNat < 2048 := p.isLt
  omega

/-- Settles O28. -/
theorem storePointerIsSetByItsTwoBytes : Obligations.StorePointerIsSetByItsTwoBytes := by
  intro s byte h
  refine ⟨⟨_, congrArg _ (onBus_ready s _ h), ?_⟩, ⟨_, congrArg _ (onBus_ready s _ h), ?_⟩,
    ⟨_, _, congrArg _ (readCycle_whole h 0x0A _), pointer_high_toNat s.mm.pointer, ?_⟩⟩
  · rw [toNat_append_eq, pointer_high_toNat]
    norm_num
  · rw [toNat_append_eq, BitVec.extractLsb'_toNat, BitVec.extractLsb'_toNat, Nat.shiftRight_zero, Nat.shiftRight_zero]
    norm_num
  · exact BitVec.toNat_setWidth ..

/-! ## Write cycles (R180, R184, R185, R194) -/

theorem exec_registerWrite_quiet {s : State} (h : s.busReady) {loc : Location} {byte : Byte}
    (hquiet : loc.toNat ∈ [0x00, 0x04, 0x09, 0x0D, 0x0E, 0x0F]) : exec (.registerWrite .taken loc byte) s = .next s := by
  show writeLocation loc byte s = .next s
  simp only [List.mem_cons, List.not_mem_nil, or_false] at hquiet
  rcases hquiet with hloc | hloc | hloc | hloc | hloc | hloc <;>
    (simp only [writeLocation, hloc, onBus_ready s id h]; rfl)

/-- A write into the paged region reaches the staging of the selected page. -/
theorem exec_registerWrite_paged {s : State} (h : s.busReady) {loc : Location} {i : Nat} (hloc : loc.toNat = 16 + i)
    (byte : Byte) : exec (.registerWrite .taken loc byte) s = .next (writeStaging i byte s) := by
  show writeLocation loc byte s = _
  unfold writeLocation
  split
  case h_17 n =>
    have hi : loc.toNat - 16 = i := by omega
    rw [hi, onBus_ready s _ h]
  all_goals omega

theorem setIfInBounds_of_lt {n : Nat} (v : Vector Byte n) {i : Nat} (h : i < n) (byte : Byte) :
    v.setIfInBounds i byte = v.set i byte h := by
  ext j hj
  simp [Vector.getElem_setIfInBounds, Vector.getElem_set]

theorem setIfInBounds_of_le {n : Nat} (v : Vector Byte n) {i : Nat} (h : n ≤ i) (byte : Byte) :
    v.setIfInBounds i byte = v := by
  ext j hj
  have hne : i ≠ j := by omega
  simp [hne]

/-- Settles O52: the common region by its rows, the paged region by the staging that the selected page has. -/
theorem writeCyclesReachTheirLocation : Obligations.WriteCyclesReachTheirLocation := by
  intro s byte h
  have hbus (f : State → State) : (Host.Outcome.next (onBus s f) : Answer) = .next (f s) := congrArg _ (onBus_ready s f h)
  refine ⟨exec_registerWrite_command s byte, hbus _, hbus _, fun loc hloc => ?_, fun loc i hloc => ?_, fun loc => ⟨hbus id, hbus id⟩⟩
  · refine exec_registerWrite_quiet h ?_
    revert loc
    decide
  · rw [exec_registerWrite_paged h hloc]
    refine ⟨fun hpage hi => ?_, fun hpage h4 hi => ?_, fun hpage hi => ?_, fun hpage hi => ?_, fun hpage hi => ?_,
      fun hpage hi => ?_, ?_, fun hpage => ?_⟩
    · simp [writeStaging, hpage, setIfInBounds_of_lt _ hi]
    · simp [writeStaging, hpage, h4, setIfInBounds_of_lt _ hi]
    · simp [writeStaging, hpage, setIfInBounds_of_lt _ hi]
    · simp [writeStaging, hpage, setIfInBounds_of_lt _ hi]
    · simp [writeStaging, hpage, setIfInBounds_of_lt _ hi]
    · simp [writeStaging, hpage, setIfInBounds_of_lt _ hi]
    · simp only [List.forall_mem_cons]
      refine ⟨fun hpage hi => ?_, fun hpage hi => ?_, fun hpage hi => ?_, fun hpage hi => ?_, fun hpage hi => ?_,
        fun hpage hi => ?_, by simp⟩
      · have hi : 28 ≤ i := by omega
        simp only [writeStaging, hpage, setIfInBounds_of_le _ hi]
      · obtain hi | ⟨-, h4⟩ := hi
        · simp only [writeStaging, hpage, setIfInBounds_of_le _ hi, ite_self]
        · simp only [writeStaging, hpage, if_pos h4]
      · have hi : 15 ≤ i := by omega
        simp only [writeStaging, hpage, setIfInBounds_of_le _ hi]
      · have hi : 4 ≤ i := by omega
        simp only [writeStaging, hpage, setIfInBounds_of_le _ hi]
      · have hi : 11 ≤ i := by omega
        simp only [writeStaging, hpage, setIfInBounds_of_le _ hi]
      · have hi : 5 ≤ i := by omega
        simp only [writeStaging, hpage, setIfInBounds_of_le _ hi]
    · have hnone : s.biu.page.toNat = 5 ∨ s.biu.page.toNat = 6 ∨ 8 ≤ s.biu.page.toNat :=
        hpage.imp (congrArg BitVec.toNat) (Or.imp_left (congrArg BitVec.toNat))
      refine congrArg _ ?_
      unfold writeStaging
      split
      case h_7 => rfl
      all_goals omega

/-! ## The interrupt line (R176 to R178) -/

/-- Settles O49. -/
theorem interruptLineFollowsTheCauses : Obligations.InterruptLineFollowsTheCauses := by
  intro s fault capture notice command hup hfault hcapture hnotice hcommand
  have hactive : s.activeCause .fault = fault ∧ s.activeCause .capture = capture ∧ s.activeCause .notice = notice ∧
      s.activeCause .command = command := by
    refine ⟨?_, ?_, ?_, ?_⟩
    · rw [hfault, Bool.eq_iff_iff]
      simp [State.activeCause, State.pendingCause, Cause.bit]
    · rw [hcapture]
      cases hqueue : s.cu.queue <;> simp [State.activeCause, State.pendingCause, hqueue, Cause.bit]
    · rw [hnotice]
      rfl
    · rw [hcommand]
      rfl
  obtain ⟨ha, hb, hc, hd⟩ := hactive
  have hirq : s.irqAsserted = (fault || capture || notice || command) := by
    rw [State.irqAsserted, hup.1, hup.2]
    simp [Cause.byPriority, ha, hb, hc, hd, Bool.or_assoc]
  have hcause : s.readLocation 0x04 =
      (if fault then 1 else if capture then 2 else if notice then 3 else if command then 4 else 0) := by
    show s.cause = _
    rw [State.cause, Cause.byPriority]
    cases fault <;> cases capture <;> cases notice <;> cases command <;> simp [List.find?, ha, hb, hc, hd, Cause.number]
  refine ⟨hirq, ?_, hcause⟩
  rw [hirq, hcause]
  clear * -
  revert fault capture notice command
  decide

/-! ## The time commands without a count (R8, R15, R17) -/

/-- The TIME page is the bytes of its fields in order. -/
theorem timePage_eq_fields (l : Latch) : timePage l = (timeFields l).flatMap fun f => leBytes f.2.1 f.2.2 := by
  cases hrun : l.run <;> simp [timePage, timeFields, leBytes_one, hrun, bitByte]

/-- Settles O11. -/
theorem snapshotRunAndStop : Obligations.SnapshotRunAndStop := by
  refine ⟨fun s hpage => pageShows_of_adjacent (by simp [timeFields, Adjacent]) ?_, fun s h => ⟨?_, ?_, fun hend => ?_, fun hend => ?_⟩⟩
  · rw [← timePage_eq_fields]
    simp [State.pageBytes, hpage]
  · exact ⟨takeLatch s.tb, congrArg Host.Outcome.next (atOnce_answered h rfl), rfl, rfl, rfl, rfl, rfl⟩
  · exact congrArg Host.Outcome.next (atOnce_answered h rfl)
  · exact congrArg Host.Outcome.next (atOnce_answered h (if_neg hend))
  · exact congrArg Host.Outcome.next (atOnce_answered h (if_pos hend))

end Sys2Proof.Machine
end

section
/-! SUPPORT. Read cycles and the common region (R181, R182, R186, R190, R196). -/

namespace Sys2Proof.Machine

/-! ## The common region (R186, R196) -/

theorem status_eq (s : State) : s.readLocation 0x00 = BitVec.ofNat 8 (bitsValue [s.au.inFlight.isSome, s.biu.cmdDone,
    decide (s.tb.run = .running), s.tb.valid, decide (s.tb.count = Config.endTime), s.ser.loop]) := by
  show s.status = _
  unfold State.status State.portBusy
  generalize s.au.inFlight.isSome = a, s.biu.cmdDone = b, decide (s.tb.run = .running) = c, s.tb.valid = d,
    decide (s.tb.count = Config.endTime) = e, s.ser.loop = f
  revert a b c d e f
  decide

theorem chosenCount_eq (s : State) : s.chosenCount = (if s.biu.arg.toNat % 4 = 0 then s.niu.lost
    else if s.biu.arg.toNat % 4 = 1 then s.cu.dropped.a else if s.biu.arg.toNat % 4 = 2 then s.cu.dropped.b
    else s.cu.droppedEv) := by
  unfold State.chosenCount
  split
  case h_4 h0 h1 h2 => rw [if_neg h0, if_neg h1, if_neg h2]
  all_goals simp_all

theorem pageShows_of_blank {s : State} (h : 8 ≤ s.biu.page.toNat) : s.pageShows [] := by
  refine pageShows_of_bytes s [] fun i => ?_
  have hblank : s.pageBytes = [] := by
    unfold State.pageBytes
    split
    case h_9 => rfl
    all_goals omega
  rw [hblank]
  rfl

/-! ## Read cycles (R181, R182) -/

/-- What the four forms of a read cycle do where the bus takes it. -/
theorem readCycle_forms {s : State} (h : s.busReady) (loc : Location) (side : State → State) {row : ReadCycle → Instr}
    (hrow : ∀ cycle, exec (row cycle) s = .next (readCycle s cycle loc side)) :
    exec (row .selectFirst) s = .next { s with hostRead := some (s.readLocation loc) } ∧
    exec (row .bothStrobes) s = .next { s with hostRead := none } ∧
    ∃ t, exec (row .whole) s = .next t ∧ t.hostRead = some (s.readLocation loc) ∧
      ∀ moved, exec (row (.moved moved)) s = .next { t with hostRead := some (s.readLocation moved) } := by
  simp only [hrow, readCycle, readDriven, onBus_ready s _ h, drives_ready h]
  exact ⟨rfl, rfl, _, rfl, rfl, fun _ => rfl⟩

/-- A read of RESULT that meets the completion of the command in flight (R190). -/
theorem exec_resultRead_meets {s t : State} (h : s.busReady) (hbusy : s.au.inFlight.isSome = true)
    (ht : exec .agendaCommandCompletion s = .next t) :
    exec (.resultRead .whole .latchesOld) s = .next { t with hostRead := some s.biu.result.code } ∧
      exec (.resultRead .whole .latchesNew) s = .next { t with hostRead := some t.biu.result.code } := by
  obtain rfl : whenMain s completeAgenda = t := Host.Outcome.next.inj ht
  have hready : (whenMain s completeAgenda).busReady := by
    rw [whenMain_up s _ ⟨h.1, h.2.1⟩]
    unfold completeAgenda
    split <;> exact h
  have hread := readCycle_whole hready 0x03 id
  have htook : (readCycle s .whole 0x03 id).hostRead = some s.biu.result.code := by rw [readCycle_whole h]; rfl
  constructor
  · refine (if_pos hbusy).trans (congrArg _ ?_)
    rw [if_pos rfl, hread, htook]
    rfl
  · refine (if_pos hbusy).trans (congrArg _ ?_)
    rw [if_neg (by decide), hread]
    rfl

/-- Settles O50: the locations named, the forms of a read cycle, and RESULT with and without a completion. -/
theorem readCyclesAndResult : Obligations.ReadCyclesAndResult := by
  have hlt (n m : Nat) : (BitVec.ofNat 8 n).toNat = n % 256 := BitVec.toNat_ofNat ..
  refine ⟨fun s => ⟨status_eq s, rfl, rfl, rfl, ?_, ?_, ?_, ?_, BitVec.toNat_ofNat .., BitVec.toNat_ofNat .., ?_,
    pageShows_of_blank⟩, fun s h => ⟨fun loc => ⟨drives_ready h loc, ?_⟩, ?_, ?_, fun t hbusy ht => ⟨?_, ?_⟩⟩⟩
  · exact BitVec.toNat_setWidth_of_le (by decide)
  · exact BitVec.toNat_setWidth_of_le (by decide)
  · exact BitVec.toNat_setWidth_of_le (by decide)
  · exact BitVec.toNat_setWidth_of_le (by decide)
  · rw [← chosenCount_eq]
    exact BitVec.toNat_ofNat ..
  · simp [State.drives]
  · simp only [List.forall_mem_cons]
    exact ⟨readCycle_forms (row := fun cycle => .resultRead cycle .none) h _ _ fun _ => rfl,
      readCycle_forms (row := .mmPtrLowRead) h _ _ fun _ => rfl, readCycle_forms (row := .mmDataRead) h _ _ fun _ => rfl,
      readCycle_forms (row := .capDataRead) h _ _ fun _ => rfl, by simp⟩
  · exact congrArg Host.Outcome.next (readCycle_whole h 0x03 _)
  · obtain ⟨f, hf⟩ := Option.isSome_iff_exists.1 hbusy
    rw [exec_agendaCommandCompletion ⟨h.1, h.2.1⟩ hf] at ht
    rw [← Host.Outcome.next.inj ht]
    rfl
  · exact exec_resultRead_meets h hbusy ht

end Sys2Proof.Machine
end

section
/-! SUPPORT. The commands that complete at once (R187, R188, R191): their acceptance is their completion, and a refusal changes
nothing but the result. -/

namespace Sys2Proof.Machine

/-- A command's effect is its own block's: the bus interface and the port are as before, and on a refusal everything is. -/
structure Orderly (s : State) (answer : State × ResultCode) : Prop where
  refused : answer.2 ≠ .ok → answer.1 = s
  biu : answer.1.biu = s.biu
  inFlight : answer.1.au.inFlight = s.au.inFlight

namespace Orderly
variable {s t : State}

theorem unchanged (r : ResultCode) : Orderly s (s, r) := ⟨fun _ => rfl, rfl, rfl⟩

theorem ok (hbiu : t.biu = s.biu) (hflight : t.au.inFlight = s.au.inFlight) : Orderly s (t, .ok) :=
  ⟨fun h => absurd rfl h, hbiu, hflight⟩

theorem ite {p : Prop} {_ : Decidable p} {a b : State × ResultCode} (ha : Orderly s a) (hb : Orderly s b) :
    Orderly s (if p then a else b) := by
  split_ifs
  exacts [ha, hb]

theorem channelCommand {f : Channel → State → State × ResultCode} (h : ∀ ch, Orderly s (f ch s)) :
    Orderly s (Machine.channelCommand s f) := by
  unfold Machine.channelCommand
  split
  exacts [.unchanged _, h _]

theorem ruleCommand {f : Fin 8 → State → State × ResultCode} (h : ∀ k, Orderly s (f k s)) :
    Orderly s (Machine.ruleCommand s f) := by
  unfold Machine.ruleCommand
  split
  exacts [.unchanged _, h _]

end Orderly

/-- A row that is a command completing at once, with an orderly effect. -/
def completesOrderly (c : Instr) : Prop := ∃ f, (∀ s, exec c s = .next (atOnce s f)) ∧ ∀ s, Orderly s (f s)

theorem msgDefine_orderly : completesOrderly .msgDefine := by
  refine ⟨_, fun _ => rfl, fun s => ?_⟩
  dsimp only
  split
  · exact .unchanged _
  · exact .ite (.unchanged _) (.ite (.unchanged _) (.ite (.unchanged _) (.ok rfl rfl)))

theorem msgUndefine_orderly : completesOrderly .msgUndefine := by
  refine ⟨_, fun _ => rfl, fun s => ?_⟩
  dsimp only
  split
  · exact .unchanged _
  · exact .ite (.unchanged _) (.ok rfl rfl)

theorem msgRead_orderly : completesOrderly .msgRead := by
  refine ⟨_, fun _ => rfl, fun s => ?_⟩
  dsimp only
  split
  exacts [.unchanged _, .ok rfl rfl]

theorem chConfig_orderly : completesOrderly .chConfig := by
  refine ⟨_, fun _ => rfl, fun s => .channelCommand fun ch => ?_⟩
  dsimp only
  split
  · exact .unchanged _
  · exact .ite (.unchanged _) (.ite (.unchanged _) (.ok rfl rfl))

theorem chFrameConfig_orderly : completesOrderly .chFrameConfig := by
  refine ⟨_, fun _ => rfl, fun s => .channelCommand fun ch => ?_⟩
  dsimp only
  split
  · exact .unchanged _
  · exact .ite (.unchanged _) (.ok rfl rfl)

theorem chSend_orderly : completesOrderly .chSend := by
  refine ⟨_, fun _ => rfl, fun s => .channelCommand fun ch => ?_⟩
  split
  · exact .unchanged _
  · split
    exacts [.unchanged _, .unchanged _, .unchanged _, .ok (joinSend_biu ..) (by rw [joinSend_au])]

theorem chBreak_orderly : completesOrderly .chBreak := by
  refine ⟨_, fun _ => rfl, fun s => .channelCommand fun ch => .ite (.unchanged _) ?_⟩
  split
  exacts [.unchanged _, .unchanged _, .ok (joinBreak_biu ..) (by rw [joinBreak_au])]

theorem loopSet_orderly : completesOrderly .loopSet := by
  refine ⟨_, fun _ => rfl, fun s => ?_⟩
  dsimp only
  split
  · exact .unchanged _
  · exact .ite (.unchanged _) (.ite (.unchanged _) (.ite (.unchanged _) (.ok rfl rfl)))

theorem capPop_orderly : completesOrderly .capPop := by
  refine ⟨_, fun _ => rfl, fun s => ?_⟩
  dsimp only
  split
  exacts [.unchanged _, .ok rfl rfl]

theorem trigWrite_orderly : completesOrderly .trigWrite := by
  refine ⟨_, fun _ => rfl, fun s => .ruleCommand fun k => ?_⟩
  dsimp only
  split
  exacts [.unchanged _, .ok rfl rfl]

theorem noticePop_orderly : completesOrderly .noticePop := by
  refine ⟨_, fun _ => rfl, fun s => ?_⟩
  dsimp only
  split
  exacts [.unchanged _, .ok rfl rfl]

/-- The commands that complete at once (R187). -/
def atOnceRows : List Instr :=
  [.timeSnapshot, .timeLoadCal, .timeLoadCount, .timeStep, .timeRun, .timeStop, .lineWrite, .lineRead, .msgDefine,
   .msgUndefine, .msgRead, .chConfig, .chFrameConfig, .chSend, .chBreak, .chAbort, .chTxReset, .chRxReset, .chRead, .loopSet,
   .evConfig, .capPop, .capFlush, .trigWrite, .trigRead, .trigDisable, .noticePop, .noticeFlush]

theorem commandOfCode_of_completesAtOnce {code : Byte} (h : completesAtOnce code = true) : commandOfCode code ∈ atOnceRows := by
  revert h
  revert code
  decide

theorem atOnceRows_orderly : ∀ c ∈ atOnceRows, completesOrderly c := by
  have hdone {c : Instr} {f : State → State} (hc : ∀ s, exec c s = .next (atOnce s fun s => (f s, .ok)))
      (hbiu : ∀ s, (f s).biu = s.biu) (hflight : ∀ s, (f s).au.inFlight = s.au.inFlight) : completesOrderly c :=
    ⟨_, hc, fun s => .ok (hbiu s) (hflight s)⟩
  have hchannel {c : Instr} {f : Channel → State → State}
      (hc : ∀ s, exec c s = .next (atOnce s fun s => channelCommand s fun ch s => (f ch s, .ok)))
      (hbiu : ∀ ch s, (f ch s).biu = s.biu) (hflight : ∀ ch s, (f ch s).au.inFlight = s.au.inFlight) : completesOrderly c :=
    ⟨_, hc, fun s => .channelCommand fun ch => .ok (hbiu ch s) (hflight ch s)⟩
  simp only [atOnceRows, List.forall_mem_cons]
  refine ⟨hdone (fun _ => rfl) (fun _ => rfl) fun _ => rfl, ⟨_, fun _ => rfl, fun s => .ite (.ok rfl rfl) (.unchanged _)⟩,
    ⟨_, fun _ => rfl, fun s => .ite (.unchanged _) (.ok rfl rfl)⟩, ⟨_, fun _ => rfl, fun s => .ite (.unchanged _) (.ok rfl rfl)⟩,
    ⟨_, fun _ => rfl, fun s => .ite (.unchanged _) (.ok rfl rfl)⟩, hdone (fun _ => rfl) (fun _ => rfl) fun _ => rfl,
    hdone (fun _ => rfl) (fun _ => rfl) fun _ => rfl, hdone (fun _ => rfl) (fun _ => rfl) fun _ => rfl,
    msgDefine_orderly, msgUndefine_orderly, msgRead_orderly, chConfig_orderly, chFrameConfig_orderly, chSend_orderly,
    chBreak_orderly, hchannel (fun _ => rfl) (fun _ _ => rfl) fun _ _ => rfl,
    hchannel (fun _ => rfl) (fun _ _ => resetTransmitter_biu ..) (fun _ _ => by rw [resetTransmitter_au]),
    hchannel (fun _ => rfl) (fun _ _ => rfl) fun _ _ => rfl, hchannel (fun _ => rfl) (fun _ _ => rfl) fun _ _ => rfl,
    loopSet_orderly, hdone (fun _ => rfl) (fun _ => rfl) fun _ => rfl, capPop_orderly,
    hdone (fun _ => rfl) (fun _ => rfl) fun _ => rfl, trigWrite_orderly,
    ⟨_, fun _ => rfl, fun s => .ruleCommand fun k => .ok rfl rfl⟩, ⟨_, fun _ => rfl, fun s => .ruleCommand fun k => .ok rfl rfl⟩,
    noticePop_orderly, hdone (fun _ => rfl) (fun _ => rfl) fun _ => rfl, by simp⟩

/-- Settles O55. -/
theorem refusedCommandsChangeNothing : Obligations.RefusedCommandsChangeNothing := by
  intro s code h hcode
  obtain ⟨f, hexec, horderly⟩ := atOnceRows_orderly _ (commandOfCode_of_completesAtOnce hcode)
  obtain ⟨hrefused, hbiu, hflight⟩ := horderly { s with biu := { s.biu with cmdDone := false } }
  have hanswer := atOnce_idle s f h.1 h.2
  refine ⟨_, hexec s, ?_, ?_, ?_, fun hno => ?_⟩
  · rw [hanswer]
    rfl
  · rw [hanswer]
    exact hflight.trans h.2
  · rw [hanswer]
    simp only [complete, hbiu]
  · rw [hanswer] at hno ⊢
    simp only [complete, hrefused hno, State.answered]

end Sys2Proof.Machine
end

section
/-! SUPPORT. The invariants of the registers, block by block (R2, R71, R72, R80, R166 to R171). -/

namespace Sys2Proof.Machine

/-! ## The Time Base (R2, R3) -/

/-- The Time Base is as before but for its own effects and a tick. -/
theorem Effect.tb_cases {s t : State} (h : Effect s t) :
    t.tb = s.tb ∨ TimeEffect s t ∨ t.tb = (tickTimeBase s).tb := by
  cases h with
  | quiet | lineWrite | detaches | resets | watchAfresh => exact .inl rfl
  | time h => exact .inr (.inl h)
  | tick ev order => exact .inr (.inr (by rw [issueTick_frame]))
  | pulseEnd => exact .inl (by rw [pulseEnded_frame])
  | agenda h => exact .inl (by rw [h.frame])
  | occurrence i rest => exact .inl (by rw [takeOccurrence_bringTicks_frame])
  | memory h => exact .inl (by rw [h.frame])
  | transmit ch h => exact .inl (by rw [h.frame])
  | receive ch h => exact .inl (by rw [h.frame])
  | capture h => exact .inl (by rw [h.frame])
  | notices h => exact .inl (by rw [h.frame])

theorem tickTimeBase_timeSound {s : State} (h : TimeSound s) : TimeSound (tickTimeBase s) := by
  obtain ⟨hcount, -⟩ := h
  unfold tickTimeBase
  dsimp only
  split
  · exact ⟨hcount, Nat.zero_le 7⟩
  · split_ifs with hend
    · exact ⟨hcount, Nat.zero_le 7⟩
    · exact ⟨hcount, Nat.zero_le 7⟩
    · exact ⟨Nat.lt_of_le_of_ne hcount hend, Nat.zero_le 7⟩

theorem Effect.timeSound {s t : State} (h : Effect s t) (hs : TimeSound s) : TimeSound t := by
  obtain htb | htime | htb := h.tb_cases
  · rw [TimeSound, htb]
    exact hs
  · obtain ⟨hcount, hphase⟩ := hs
    cases htime with
    | sets count phase hnew hzero =>
      refine ⟨hnew, ?_⟩
      obtain rfl | rfl := hzero
      exacts [Nat.zero_le 7, hphase]
    | runs => exact ⟨hcount, hphase⟩
    | passes periods hpasses => exact ⟨hcount, Nat.le_of_lt_succ hpasses⟩
  · rw [TimeSound, htb]
    exact tickTimeBase_timeSound hs

theorem timeSound_coldStart : State.reset.tb.count ≤ Config.endTime ∧ State.reset.tb.phase ≤ 7 := by decide

theorem SupplyEffect.timeSound {s t : State} (h : SupplyEffect s t) (hs : TimeSound s) : TimeSound t := by
  cases h with
  | powerLost tb power htb =>
    obtain rfl | rfl := htb
    exacts [hs, timeSound_coldStart]
  | backupLost => exact timeSound_coldStart
  | mainReset | releases | nothing => exact hs

theorem step_timeSound {s t : State} (hs : TimeSound s) (h : step s = .next t) : TimeSound t :=
  step_keeps (P := TimeSound) (fun _ _ h => h) (fun halike hs => by rwa [TimeSound, halike.count, halike.phase])
    SupplyEffect.timeSound Effect.timeSound hs h

/-! ## The Notice and Interrupt Unit (R166 to R171) -/

/-- The bounds of the unit's queue, lost count and threshold. -/
def Notices.Bounded (n : Notices) : Prop :=
  n.queue.length ≤ Config.noticeDepth ∧ n.lost ≤ 255 ∧ 1 ≤ n.threshold ∧ n.threshold ≤ 32

theorem Notices.Bounded.congr {n n' : Notices} (h : n.Bounded) (hqueue : n'.queue = n.queue) (hlost : n'.lost = n.lost)
    (hthreshold : n'.threshold = n.threshold) : n'.Bounded := by
  rwa [Notices.Bounded, hqueue, hlost, hthreshold]

theorem Notices.Bounded.refusing {n : Notices} (h : n.Bounded) (refused : Bool) : (n.refusing refused).Bounded := by
  cases refused
  · exact h
  · exact h.congr rfl rfl rfl

/-- Notices join up to the depth of the queue, and the rest are counted, saturating (R167, R171). -/
theorem Notices.Bounded.took {n : Notices} (h : n.Bounded) (stamp : Stamp) (bodies : List NoticeBody) :
    (n.took stamp bodies).Bounded := by
  obtain ⟨hqueue, hlost, hlow, hhigh⟩ := h
  have hdepth : Config.noticeDepth = 32 := rfl
  refine ⟨?_, ?_, hlow, hhigh⟩
  · simp only [Notices.took, List.length_append, List.length_map, List.length_take]
    omega
  · simp only [Notices.took]
    split_ifs <;> omega

theorem noticesSound_reset : Notices.reset.Bounded := ⟨by decide, by decide, by decide, by decide⟩

theorem takeArmRequests_niu_bounded (g : List ArmRequest) {s : State} (h : s.niu.Bounded) :
    (g.foldl takeArmRequest s).niu.Bounded := by
  induction g generalizing s with
  | nil => exact h
  | cons q g ih =>
    refine ih ?_
    rw [takeArmRequest_niu]
    split_ifs
    exacts [h, (h.refusing true).took _ _]

theorem closeRecord_niu_bounded (r : CaptureRecord) {s : State} (h : s.niu.Bounded) : (closeRecord r s).niu.Bounded := by
  obtain ⟨-, heq, -⟩ := judgeRules_said r (allRules.filter (ruleMatches s r)) s [] _ _ rfl rfl
  have hniu := congrArg State.niu heq
  simp only [closeRecord, hniu]
  exact (h.refusing _).took _ _

theorem closeOpened_niu_bounded (ch : Channel) (cause : EndCause) (flags : FrameFlags) {s : State} (h : s.niu.Bounded) :
    (closeOpened ch cause flags s).niu.Bounded := by
  unfold closeOpened
  split
  · exact h
  · exact closeRecord_niu_bounded _ (by exact h)

theorem endFrame_niu_bounded (ch : Channel) (cause : EndCause) {s : State} (h : s.niu.Bounded) :
    (endFrame ch cause s).niu.Bounded := by
  rw [endFrame_eq, withRx_niu]
  split_ifs
  · exact closeOpened_niu_bounded ch cause _ h
  · exact h

theorem takeCharacter_niu_bounded (ch : Channel) (byte : Byte) (wrong stopBit : Bool) (r : Receiver) {s : State}
    (h : s.niu.Bounded) : (takeCharacter ch byte wrong stopBit (s.withRx ch r)).niu.Bounded := by
  have htaken : (s.characterTaken ch (r.counted wrong stopBit) byte).niu.Bounded := by
    unfold State.characterTaken
    split_ifs <;> exact h
  rw [takeCharacter_eq]
  dsimp only
  cases (r.counted wrong stopBit).endsWith byte with
  | none => exact htaken
  | some cause => exact endFrame_niu_bounded ch cause htaken

theorem dropFrame_niu_bounded (ch : Channel) {s : State} (h : s.niu.Bounded) : (dropFrame ch s).niu.Bounded :=
  h.congr rfl rfl rfl

theorem ReceiveEffect.niu_bounded {s t : State} {ch : Channel} (h : ReceiveEffect s ch t) (hs : s.niu.Bounded) :
    t.niu.Bounded := by
  cases h with
  | moves | abandons => exact hs
  | starts =>
    unfold startFrame
    dsimp only
    split_ifs
    · exact hs
    · exact dropFrame_niu_bounded ch hs
  | takes byte wrong stopBit r => exact takeCharacter_niu_bounded ch byte wrong stopBit r hs
  | ends cause r => exact endFrame_niu_bounded ch cause (s := s.withRx ch r) hs
  | breaks stamp =>
    rw [withRx_niu]
    split_ifs
    · exact closeRecord_niu_bounded _ hs
    · exact dropFrame_niu_bounded ch hs

theorem offerEdges_niu_bounded (stamp : Stamp) (edges : List (Fin 4 × EdgeDir)) {s : State} (h : s.niu.Bounded) :
    (edges.foldl (offerEdge stamp) s).niu.Bounded := by
  induction edges generalizing s with
  | nil => exact h
  | cons e edges ih =>
    refine ih ?_
    unfold offerEdge
    split_ifs
    · exact closeRecord_niu_bounded _ h
    · exact h.congr rfl rfl rfl

theorem requestLeaves_niu_bounded (r : Request) (body : Fin 32 → Source → NoticeBody) {s : State} (h : s.niu.Bounded) :
    (requestLeaves r body s).niu.Bounded := by
  cases r with
  | brk n => exact h
  | send m source notify =>
    rw [requestLeaves, postIf_eq_took]
    exact h.took _ _

theorem headLeaves_niu_bounded (ch : Channel) (body : Fin 32 → Source → NoticeBody) {s : State} (h : s.niu.Bounded) :
    (headLeaves ch body s).niu.Bounded := by
  unfold headLeaves
  split
  · exact h
  · dsimp only
    rw [putOnLine_niu]
    exact requestLeaves_niu_bounded _ body h

theorem resetTransmitter_niu_bounded (ch : Channel) {s : State} (h : s.niu.Bounded) : (resetTransmitter ch s).niu.Bounded := by
  have hleave (rs : List Request) : ∀ s : State, s.niu.Bounded →
      (rs.foldl (fun s r => requestLeaves r (fun m src => .txAborted ch m src 0) s) s).niu.Bounded := by
    induction rs with
    | nil => exact fun _ h => h
    | cons r rs ih => exact fun s h => ih _ (requestLeaves_niu_bounded r _ h)
  exact hleave _ _ h

theorem TransmitEffect.niu_bounded {s t : State} {ch : Channel} (h : TransmitEffect s ch t) (hs : s.niu.Bounded) :
    t.niu.Bounded := by
  cases h with
  | settles | aborts | configures => exact hs
  | goesOn t => rwa [putOnLine_niu]
  | leaves body => exact headLeaves_niu_bounded ch body (s := s.withTx ch _) hs
  | sends => rwa [joinSend_niu]
  | breaks => rwa [joinBreak_niu]
  | resets => exact resetTransmitter_niu_bounded ch hs

theorem takeOccurrence_niu_bounded (i : Fin 64) (rest : List (Fin 64)) {s : State} (h : s.niu.Bounded) :
    (takeOccurrence i rest s).niu.Bounded := by
  unfold takeOccurrence
  dsimp only
  split_ifs
  · obtain ⟨bodies, hniu⟩ := performOccurrence_niu { s with au := { s.au with dueList := rest } } i s.au.slots[i].entry
    rw [hniu]
    exact (h.refusing _).took _ _
  · unfold missOccurrence
    dsimp only
    obtain ⟨bodies, hniu⟩ := settleOccurrence_niu i s.au.slots[i].entry.notify.onSpent _ _
    rw [hniu, postIf_eq_took]
    exact (h.took _ _).took _ _

theorem NoticeEffect.niu_bounded {s t : State} (h : NoticeEffect s t) (hs : s.niu.Bounded) : t.niu.Bounded := by
  obtain ⟨hqueue, hlost, hlow, hhigh⟩ := hs
  cases h with
  | pops n rest hcons =>
    rw [hcons, List.length_cons] at hqueue
    exact ⟨Nat.le_of_succ_le hqueue, hlost, hlow, hhigh⟩
  | flushes => exact ⟨Nat.zero_le _, Nat.zero_le _, hlow, hhigh⟩
  | threshold byte =>
    refine ⟨hqueue, hlost, ?_⟩
    unfold writeThreshold
    dsimp only
    split_ifs with hrange
    exacts [hrange, ⟨Nat.le_refl 1, by decide⟩]

theorem tickTimeBase_niu_bounded {s : State} (h : s.niu.Bounded) : (tickTimeBase s).niu.Bounded := by
  unfold tickTimeBase
  dsimp only
  split
  · exact h
  · split_ifs
    exacts [h.congr rfl rfl rfl, h, h]

theorem Effect.niu_bounded {s t : State} (h : Effect s t) (hs : s.niu.Bounded) : t.niu.Bounded := by
  cases h with
  | quiet | lineWrite | detaches | watchAfresh => exact hs
  | time h => rw [h.frame]; exact hs
  | tick ev order => rw [issueTick_frame]; exact tickTimeBase_niu_bounded hs
  | pulseEnd => rw [pulseEnded_frame]; exact hs
  | agenda h =>
    cases h with
    | decides => exact hs
    | answers g rest => exact takeArmRequests_niu_bounded g (s := s.withAnswers rest) hs
  | occurrence i rest => rw [takeOccurrence_bringTicks_frame]; exact takeOccurrence_niu_bounded i rest hs
  | memory h => rw [h.frame]; exact hs
  | transmit ch h => exact h.niu_bounded hs
  | receive ch h => exact h.niu_bounded hs
  | capture h =>
    cases h with
    | edges stamp edges => exact offerEdges_niu_bounded stamp edges hs
    | pops | flushes => exact hs
  | notices h => exact h.niu_bounded hs
  | resets => exact noticesSound_reset

theorem SupplyEffect.niu_bounded {s t : State} (h : SupplyEffect s t) (hs : s.niu.Bounded) : t.niu.Bounded := by
  cases h with
  | powerLost | mainReset => exact noticesSound_reset
  | releases | backupLost | nothing => exact hs

theorem step_noticesSound {s t : State} (hs : NoticesSound s) (h : step s = .next t) : NoticesSound t := by
  refine step_keeps (P := fun s => s.niu.Bounded) (fun _ _ h => h) (fun {s t} halike hs => ?_) SupplyEffect.niu_bounded
    Effect.niu_bounded hs h
  exact hs.congr (congrArg (fun u => u.niu.queue) halike) (congrArg (fun u => u.niu.lost) halike)
    (congrArg (fun u => u.niu.threshold) halike)

/-! ## The store (R80, R90) -/

theorem Effect.storeSound {s t : State} (h : Effect s t) (hs : StoreSound s) : StoreSound t := by
  cases h with
  | quiet | lineWrite | detaches | watchAfresh | resets => exact hs
  | time h => rw [h.frame]; exact hs
  | tick ev order => rw [issueTick_frame]; exact hs
  | pulseEnd => rw [pulseEnded_frame]; exact hs
  | agenda h => rw [h.frame]; exact hs
  | occurrence i rest =>
    rw [StoreSound, takeOccurrence_bringTicks_frame, (takeOccurrence_sameButBusy i rest s).1]
    exact hs
  | memory h =>
    cases h with
    | writes i byte hi => exact Memory.write_wf s.mm.store i byte hi hs
    | describes => exact hs
  | transmit ch h => rw [StoreSound, h.sameButBusy.1]; exact hs
  | receive ch h => rw [h.frame]; exact hs
  | capture h => rw [h.frame]; exact hs
  | notices h => rw [h.frame]; exact hs

theorem storeSound_empty : Memory.wf [] := by simp [Memory.wf]

theorem SupplyEffect.storeSound {s t : State} (h : SupplyEffect s t) (hs : StoreSound s) : StoreSound t := by
  cases h with
  | powerLost => exact storeSound_empty
  | mainReset | releases | backupLost | nothing => exact hs

theorem step_storeSound {s t : State} (hs : StoreSound s) (h : step s = .next t) : StoreSound t :=
  step_keeps (P := StoreSound) (fun _ _ h => h) (fun halike hs => by rwa [StoreSound, halike.store])
    SupplyEffect.storeSound Effect.storeSound hs h

/-! ## The lines (R71, R72) -/

/-- A pending return has a tick remaining. -/
def Line.Sound (l : Line) : Prop := ∀ r, l.pending = some r → 1 ≤ r.remaining

theorem Line.Sound.takeTick {l : Line} (h : l.Sound) : l.takeTick.Sound := by
  obtain ⟨-, heq⟩ | ⟨r, -, -, heq⟩ | ⟨r, -, htwo, heq⟩ := l.takeTick_cases
  · rwa [heq]
  · rw [heq]
    exact fun _ hr => absurd hr (by simp)
  · rw [heq]
    rintro _ ⟨⟩
    exact Nat.le_sub_of_add_le htwo

theorem Line.Sound.act {l : Line} (h : l.Sound) (inSet inClear : Bool) (width : Nat) (source : Source) :
    (l.act inSet inClear width source).Sound := by
  intro r hr
  unfold Line.act at hr
  by_cases hin : (inSet || inClear) = true
  · rw [if_pos hin] at hr
    by_cases hwidth : width = 0
    · simp [hwidth] at hr
    · obtain rfl : { level := l.level, remaining := width } = r := by simpa [hwidth] using hr
      exact Nat.one_le_iff_ne_zero.2 hwidth
  · rw [if_neg hin] at hr
    exact h r hr

def DispatchUnit.Sound (d : DispatchUnit) : Prop := ∀ n : Fin 8, d.lines[n].Sound

theorem DispatchUnit.Sound.takeTick {d : DispatchUnit} (h : d.Sound) : d.takeTick.Sound := fun n => by
  simpa [DispatchUnit.takeTick] using (h n).takeTick

theorem DispatchUnit.Sound.settle {d : DispatchUnit} (h : d.Sound) : d.settle.Sound := by
  unfold DispatchUnit.settle
  split_ifs
  exacts [h.takeTick, h]

theorem DispatchUnit.Sound.tickLines {d : DispatchUnit} (h : d.Sound) (late : Bool) : (tickLines late d).Sound := by
  unfold Machine.tickLines
  dsimp only
  split_ifs
  exacts [h.settle, h.settle.takeTick]

theorem DispatchUnit.Sound.lineAction {d : DispatchUnit} (h : d.Sound) (setMask clearMask : BitVec 8) (width : Nat)
    (source : Source) : (lineAction setMask clearMask width source d).Sound := fun n => by
  simpa [Machine.lineAction] using (h n).act _ _ width source

theorem DispatchUnit.Sound.setDrive {d : DispatchUnit} (h : d.Sound) (mask : BitVec 8) : (setDrive mask d).Sound := fun n => by
  simpa [Machine.setDrive] using! h n

theorem bringTicks_du_sound {s : State} (h : s.du.Sound) : (bringTicks s).du.Sound := by
  obtain ⟨-, heq⟩ | ⟨-, hdu, -⟩ := bringTicks_cases s
  · rwa [heq]
  · rw [hdu]
    exact h.settle

theorem takeOccurrence_du_sound (i : Fin 64) (rest : List (Fin 64)) {s : State} (h : s.du.Sound) :
    (takeOccurrence i rest s).du.Sound := by
  unfold takeOccurrence
  dsimp only
  split_ifs
  · rw [performOccurrence_du]
    exact h.lineAction _ _ _ _
  · rwa [missOccurrence_du]

theorem issueTick_du_sound (ev : BitVec 4) (order : TickOrder) {s : State} (h : s.du.Sound) : (issueTick ev order s).du.Sound := by
  have htime : (tickTimeBase s).du.Sound := by rwa [tickTimeBase_du]
  by_cases hup : (tickTimeBase s).mainUp
  · simp only [issueTick, whenMain_up _ _ hup]
    exact bringTicks_du_sound (htime.tickLines order.lateDu)
  · simpa only [issueTick, whenMain_down _ _ hup] using htime

theorem dispatchUnit_sound_reset : DispatchUnit.reset.Sound := fun n r hr => by
  simp [DispatchUnit.reset, Line.reset] at hr

theorem Effect.du_sound {s t : State} (h : Effect s t) (hs : s.du.Sound) : t.du.Sound := by
  cases h with
  | quiet | detaches | watchAfresh => exact hs
  | lineWrite setMask clearMask drive width => exact (hs.setDrive drive).lineAction _ _ _ _
  | time h => rw [h.frame]; exact hs
  | tick ev order => exact issueTick_du_sound ev order hs
  | pulseEnd => exact bringTicks_du_sound (s := { s with du := s.du.settle }) hs.settle
  | agenda h => rw [h.frame]; exact hs
  | occurrence i rest => exact bringTicks_du_sound (takeOccurrence_du_sound i rest hs)
  | memory h => rw [h.frame]; exact hs
  | transmit ch h => rw [h.frame]; exact hs
  | receive ch h => rw [h.frame]; exact hs
  | capture h => rw [h.frame]; exact hs
  | notices h => rw [h.frame]; exact hs
  | resets => exact dispatchUnit_sound_reset

theorem SupplyEffect.du_sound {s t : State} (h : SupplyEffect s t) (hs : s.du.Sound) : t.du.Sound := by
  cases h with
  | powerLost | mainReset => exact dispatchUnit_sound_reset
  | releases | backupLost | nothing => exact hs

theorem step_linesSound {s t : State} (hs : LinesSound s) (h : step s = .next t) : LinesSound t := by
  refine step_keeps (P := fun s => s.du.Sound) (fun _ _ h => h) (fun halike hs => ?_) SupplyEffect.du_sound
    Effect.du_sound hs h
  rwa [DispatchUnit.Sound, halike.lines]

end Sys2Proof.Machine
end

section
/-! SUPPORT. The supplies' invariant: ticks on their way (R71, R103, log 5), and a main domain that is down (R18, R38, R183). -/

namespace Sys2Proof.Machine

/-! ## Ticks on their way to a block -/

/-- After this a tick is on its way only while it may be. -/
theorem bringTicks_ticks (s : State) : (bringTicks s).ticksTaken ∨ (bringTicks s).ticksMayWait := by
  by_cases hwait : s.ticksMayWait
  · rw [bringTicks_waits hwait]
    exact .inr hwait
  · obtain ⟨hmay, -⟩ | ⟨-, hdu, htx, -⟩ := bringTicks_cases s
    · exact absurd ((tickMayWait_iff s).1 hmay) hwait
    · refine .inl ⟨?_, ?_, ?_⟩
      · rw [hdu, settle_tickOwed]
      · rw [htx, settle_tx_tickOwed]
      · rw [htx, settle_tx_tickOwed]

theorem abort_tickOwed (t : Transmitter) : t.abort.tickOwed = t.tickOwed := by
  unfold Transmitter.abort
  split <;> rfl

/-- No transmitter owes a tick. -/
def State.txTaken (s : State) : Prop := ∀ ch, (s.tx ch).tickOwed = false

theorem ticksTaken_iff (s : State) : s.ticksTaken ↔ s.du.tickOwed = false ∧ s.txTaken :=
  ⟨fun ⟨hdu, ha, hb⟩ => ⟨hdu, fun ch => by cases ch; exacts [ha, hb]⟩, fun ⟨hdu, htx⟩ => ⟨hdu, htx .a, htx .b⟩⟩

theorem State.txTaken.of_withTx {s t : State} {ch : Channel} {x : Transmitter} (h : s.txTaken) (hx : x.tickOwed = false)
    (htx : ∀ ch', t.tx ch' = (s.withTx ch x).tx ch') : t.txTaken := fun ch' => by
  rw [htx]
  obtain rfl | rfl := eq_or_eq_otherChannel ch ch'
  · rwa [withTx_tx]
  · rw [withTx_tx_other]
    exact h _

theorem headLeaves_txTaken {s : State} (h : s.txTaken) (ch : Channel) (body : Fin 32 → Source → NoticeBody) :
    (headLeaves ch body s).txTaken := by
  have hbegins (lead : Bool) (rest : List Request) : ((s.tx ch).beginsNext s.mm lead rest).tickOwed = false :=
    (startHead_tickOwed ..).trans (h ch)
  have hput (x : Transmitter) (ch' : Channel) : (putOnLine ch x s).tx ch' = (s.withTx ch x).tx ch' := putOnLine_tx s ch ch' x
  cases hqueue : (s.tx ch).queue with
  | nil =>
    rw [headLeaves, hqueue]
    exact h
  | cons r rest =>
    cases r with
    | brk n =>
      rw [headLeaves_brk body hqueue]
      exact h.of_withTx (hbegins true rest) (hput _)
    | send m source notify =>
      exact h.of_withTx (hbegins false rest) fun ch' =>
        (tx_of_ser_eq (headLeaves_send_ser body hqueue) ch').trans (hput _ ch')

theorem TransmitEffect.txTaken {s t : State} {ch : Channel} (h : TransmitEffect s ch t) (hs : s.txTaken) : t.txTaken := by
  have hsettled : (s.withTx ch (s.tx ch).settle).txTaken := hs.of_withTx (settle_tx_tickOwed _) fun _ => rfl
  have hjoined (r : Request) : ((s.tx ch).joinedBy s.mm [r]).tickOwed = false := (joinedBy_tickOwed ..).trans (hs ch)
  cases h with
  | settles => exact hsettled
  | goesOn x _ _ howed => exact hsettled.of_withTx howed fun ch' => putOnLine_tx _ ch ch' x
  | leaves body => exact headLeaves_txTaken hsettled ch body
  | sends m source notify => exact hs.of_withTx (hjoined _) (joinQueue_tx ch · (.send m source notify) s)
  | breaks length => exact hs.of_withTx (hjoined _) (joinQueue_tx ch · (.brk length) s)
  | aborts => exact hs.of_withTx ((abort_tickOwed _).trans (hs ch)) fun _ => rfl
  | resets =>
    exact hs.of_withTx (x := { (s.tx ch).abort with queue := (s.tx ch).queue.take 1 }) ((abort_tickOwed _).trans (hs ch))
      (tx_of_ser_eq (resetTransmitter_ser ch s))
  | configures config r =>
    intro ch'
    obtain rfl | rfl := eq_or_eq_otherChannel ch ch'
    · simpa only [State.tx, State.chan, get_set_same] using! hs ch'
    · simpa only [State.tx, State.chan, get_set_other] using! hs _

theorem ticksTaken_reset {s : State} (hdu : s.du = .reset) (hser : s.ser = .reset) : s.ticksTaken := by
  rw [State.ticksTaken, State.tx, State.tx, State.chan, State.chan, hdu, hser]
  decide

theorem Effect.ticks {s t : State} (h : Effect s t) (hs : s.ticksTaken) : t.ticksTaken ∨ t.ticksMayWait := by
  obtain ⟨hdu, htx⟩ := (ticksTaken_iff s).1 hs
  cases h with
  | quiet => exact .inl hs
  | lineWrite | detaches | watchAfresh => exact .inl hs
  | time h => rw [h.frame]; exact .inl hs
  | tick ev order =>
    by_cases hup : (tickTimeBase s).mainUp
    · simp only [issueTick, whenMain_up _ _ hup]
      exact bringTicks_ticks _
    · simp only [issueTick, whenMain_down _ _ hup]
      refine .inl ((ticksTaken_iff _).2 ⟨by rwa [tickTimeBase_du], fun ch => ?_⟩)
      rw [tx_of_ser_eq (tickTimeBase_ser s)]
      exact htx ch
  | pulseEnd => exact bringTicks_ticks _
  | agenda h => rw [h.frame]; exact .inl hs
  | occurrence i rest => exact bringTicks_ticks _
  | memory h => rw [h.frame]; exact .inl hs
  | transmit ch h =>
    refine .inl ((ticksTaken_iff _).2 ⟨?_, h.txTaken htx⟩)
    rw [h.frame]
    exact hdu
  | receive ch h =>
    obtain ⟨r, hser⟩ := h.ser
    refine .inl ((ticksTaken_iff _).2 ⟨?_, fun ch' => ?_⟩)
    · rw [h.frame]
      exact hdu
    · rw [tx_of_ser_eq hser, withRx_tx]
      exact htx ch'
  | capture h => rw [h.frame]; exact .inl hs
  | notices h => rw [h.frame]; exact .inl hs
  | resets => exact .inl (ticksTaken_reset rfl rfl)

theorem State.alike.ticks {s t : State} (h : s.alike t) (hs : s.ticksTaken ∨ s.ticksMayWait) : t.ticksTaken ∨ t.ticksMayWait := by
  simp only [State.ticksTaken, State.ticksMayWait, State.takes, State.mainUp, h.du_tickOwed, h.tx, h.pending, h.vmainGood,
    h.resetHigh, h.run, h.dueList, h.slots, h.count]
  exact hs

theorem affects_ticks {s t : State} (h : s.affects t) (hs : s.ticksTaken) : t.ticksTaken ∨ t.ticksMayWait := by
  obtain ⟨u, v, hu, heffect, hv⟩ := h
  refine hv.ticks (heffect.ticks ?_)
  rwa [State.ticksTaken, hu.du_tickOwed, hu.tx, hu.tx]

theorem SupplyEffect.ticks {s t : State} (h : SupplyEffect s t) (hs : s.ticksTaken) : t.ticksTaken := by
  cases h with
  | powerLost | mainReset => exact ticksTaken_reset rfl rfl
  | releases | backupLost | nothing => exact hs

/-- A tick on its way when a step begins is taken in it, or may wait on. -/
theorem step_ticks {s t : State} (hs : s.ticksTaken ∨ s.ticksMayWait) (hdown : ¬ s.mainUp → s.ticksTaken)
    (h : step s = .next t) : t.ticksTaken ∨ t.ticksMayWait := by
  unfold step at h
  split at h
  case h_1 hempty =>
    obtain rfl := Host.Outcome.next.inj h
    refine affects_ticks (oscillatorPeriod_affects s) (hs.resolve_right fun hwait => ?_)
    simp [State.ticksMayWait, hempty] at hwait
  case h_2 c rest hfront =>
    have htaken (hs : s.ticksTaken) : t.ticksTaken ∨ t.ticksMayWait := by
      obtain hrow | hrow := exec_cases h
      · exact .inl (hrow.ticks hs)
      · exact affects_ticks hrow hs
    by_cases hup : s.mainUp
    · obtain hs | hend | ⟨hoccurs, i, due, htakes⟩ := hs
      · exact htaken hs
      · obtain rfl : c = .pulseEnd := by simpa [hfront] using hend
        rw [exec_pulseEnd (s := { s with pending := rest }) hup] at h
        rw [← Host.Outcome.next.inj h]
        exact bringTicks_ticks _
      · obtain rfl : c = .occurrence := by simpa [hfront] using hoccurs
        rw [exec_occurrence_takes (s := { s with pending := rest }) htakes] at h
        rw [← Host.Outcome.next.inj h]
        exact bringTicks_ticks _
    · exact htaken (hdown hup)

/-! ## A main domain that is down (R183) -/

/-- What a row can change while the main domain is down: the Time Base and what the host takes. -/
def State.sameMain (s t : State) : Prop := t = { s with tb := t.tb, hostRead := t.hostRead, idleTicks := t.idleTicks }

theorem tickTimeBase_down {s : State} (h : ¬ s.mainUp) : tickTimeBase s = { s with tb := (tickTimeBase s).tb } := by
  have hdown : s.mainAlive = false := Bool.not_eq_true _ ▸ mt (mainAlive_iff s).1 h
  unfold tickTimeBase
  dsimp only
  split
  · rfl
  · have hset : ∀ tb : TimeBase, ({ s with tb := tb } : State).mainAlive = false := fun _ => hdown
    simp only [hset, Bool.false_eq_true, if_false]
    split_ifs <;> rfl

theorem passPeriods_down {s : State} (h : ¬ s.mainUp) (k : Nat) (ev : BitVec 4) (order : TickOrder) :
    passPeriods k ev order s = { s with tb := (passPeriods k ev order s).tb } := by
  unfold passPeriods
  split_ifs
  · rfl
  · have hdown : ¬ (tickTimeBase s).mainUp := by
      rw [tickTimeBase_frame]
      exact h
    simp only [issueTick, whenMain_down _ _ hdown]
    exact tickTimeBase_down h
  · rfl

theorem oscillatorPeriod_down {s : State} (h : ¬ s.mainUp) : s.sameMain (oscillatorPeriod s) := by
  unfold oscillatorPeriod
  split_ifs
  · rw [passPeriods_down (s := { s with idleTicks := s.idleTicks + 1 }) h]
    rfl
  · rw [passPeriods_down h]
    rfl

theorem readCycle_down {s : State} (h : ¬ s.mainUp) (cycle : ReadCycle) (loc : Location) (side : State → State) :
    readCycle s cycle loc side = { s with hostRead := none } :=
  readCycle_ignored (fun hready => h ⟨hready.1, hready.2.1⟩) (fun f => onBus_down h f) cycle loc side

theorem exec_resultRead_down {s : State} (h : ¬ s.mainUp) (cycle : ReadCycle) (meet : ResultMeet) :
    exec (.resultRead cycle meet) s = .next { s with hostRead := none } := by
  have hread (side : State → State) := readCycle_down h cycle 0x03 side
  have hcomplete := whenMain_down s completeAgenda h
  cases meet with
  | none => exact congrArg _ (hread _)
  | latchesOld | latchesNew =>
    by_cases hbusy : s.portBusy = true
    · refine (if_pos hbusy).trans (congrArg _ ?_)
      rw [hcomplete, hread]
      rfl
    · exact (if_neg hbusy).trans (congrArg _ (hread _))

theorem exec_down {c : Instr} (hrow : supplyRow c = false) {s : State} (h : ¬ s.mainUp) :
    ∃ t, exec c s = .next t ∧ s.sameMain t := by
  have hbus (f : State → State) : ∃ t, (Host.Outcome.next (onBus s f) : Answer) = .next t ∧ s.sameMain t :=
    ⟨s, congrArg _ (onBus_down h f), rfl⟩
  have hevent (f : State → State) : ∃ t, (Host.Outcome.next (whenMain s f) : Answer) = .next t ∧ s.sameMain t :=
    ⟨s, congrArg _ (whenMain_down s f h), rfl⟩
  have hread (cycle : ReadCycle) (loc : Location) (side : State → State) :
      ∃ t, (Host.Outcome.next (readCycle s cycle loc side) : Answer) = .next t ∧ s.sameMain t :=
    ⟨{ s with hostRead := none }, congrArg _ (readCycle_down h cycle loc side), rfl⟩
  have hcommand {c : Instr} (hc : ∃ f, ∀ s, exec c s = .next (offer s f)) : ∃ t, exec c s = .next t ∧ s.sameMain t := by
    obtain ⟨f, hf⟩ := hc
    rw [hf]
    exact hbus _
  by_cases hhost : c ∈ hostRows
  · exact hcommand (hostRows_offers hhost)
  · cases c with
    | tick ev order =>
      refine ⟨_, rfl, ?_⟩
      rw [passPeriods_down h]
      rfl
    | pulseEnd | occurrence | edgeGroup | armRequestGroup | agendaCommandCompletion | txCharacterEnd | txBreakTimeEnd
    | txLeadEnd | rxFall | rxRise | markQualified | startBitSample | rxCharacterComplete | gapExpiry | breakDetected =>
      exact hevent _
    | unknownCommandCode code =>
      obtain ⟨f, hf⟩ := exec_commandOfCode_offers code
      exact ⟨_, (exec_commandOfCode code s).symm.trans ((hf s).trans (congrArg _ (onBus_down h _))), rfl⟩
    | resultRead cycle meet =>
      cases meet with
      | none => exact hread ..
      | latchesOld | latchesNew => exact ⟨{ s with hostRead := none }, exec_resultRead_down h cycle _, rfl⟩
    | mmPtrLowWrite | mmPtrHighWrite | mmDataWrite | faultWrite | faultEnableWrite | causeEnableWrite | noticeThresholdWrite =>
      exact hbus _
    | mmPtrLowRead | mmDataRead | capDataRead => exact hread ..
    | registerWrite cycle loc byte =>
      obtain ⟨f, hf⟩ := registerWrite_onBus cycle loc byte
      rw [hf]
      exact hbus f
    | coldStart | mainPowerUp | vmainFall | resetNAssert | resetNRelease | backupDomainLoss => simp [supplyRow] at hrow
    | _ => simp [hostRows] at hhost

/-- Every block of the main domain stands at its reset value, and no message is in use. -/
def State.mainAtReset (s : State) : Prop :=
  s.biu = .reset ∧ s.au = .reset ∧ s.du = .reset ∧ s.ser = .reset ∧ s.evi = .reset ∧ s.cu = .reset ∧ s.tu = .reset ∧
    s.niu = .reset ∧ s.mm = { MessageMemory.lost s.mm.epoch with store := s.mm.store, directory := s.mm.directory } ∧
    ∀ m : Fin 32, s.mm.directory[m].busy = 0

theorem SupplyEffect.mainAtReset {s t : State} (h : SupplyEffect s t) (hs : ¬ s.mainUp → s.mainAtReset) (ht : ¬ t.mainUp) :
    t.mainAtReset := by
  cases h with
  | powerLost tb power =>
    refine ⟨rfl, rfl, rfl, rfl, rfl, rfl, rfl, rfl, rfl, fun m => ?_⟩
    simp [State.powerLost, MessageMemory.lost, Descriptor.undefined]
  | mainReset => exact ⟨rfl, rfl, rfl, rfl, rfl, rfl, rfl, rfl, rfl, fun m => by rw [mainReset_directory]⟩
  | releases n => exact hs fun hup => ht ⟨hup.1, rfl⟩
  | backupLost hlow => exact hs fun hup => absurd hup.1 (by simp [hlow])
  | nothing => exact hs ht

theorem SupplyEffect.backup {s t : State} (h : SupplyEffect s t)
    (hs : s.power.vmainGood = true → s.power.backupHeld = true) : t.power.vmainGood = true → t.power.backupHeld = true := by
  cases h with
  | powerLost _ power _ hpower => exact hpower
  | mainReset | releases | nothing => exact hs
  | backupLost hlow => exact fun hgood => by simp [hlow] at hgood

theorem affects_power {s t : State} (h : s.affects t) : t.power.vmainGood = s.power.vmainGood ∧
    t.power.backupHeld = s.power.backupHeld ∧ t.power.resetHigh = s.power.resetHigh := by
  obtain ⟨u, v, hu, heffect, hv⟩ := h
  obtain ⟨hpower, -⟩ := heffect.power_pending
  rw [hv.vmainGood, hv.backupHeld, hv.resetHigh, hpower, hu.vmainGood, hu.backupHeld, hu.resetHigh]
  exact ⟨rfl, rfl, rfl⟩

theorem affects_mainUp {s t : State} (h : s.affects t) : t.mainUp ↔ s.mainUp := by
  obtain ⟨hgood, -, hhigh⟩ := affects_power h
  rw [State.mainUp, hgood, hhigh]

theorem State.mainAtReset.of_sameMain {s t : State} (h : s.mainAtReset) (hsame : s.sameMain t) : t.mainAtReset := by
  rw [hsame]
  exact h

/-- A row leaves a main domain that is down at its reset values, or brings it there. -/
theorem exec_mainAtReset {c : Instr} {s t : State} (h : exec c s = .next t) (hs : ¬ s.mainUp → s.mainAtReset)
    (ht : ¬ t.mainUp) : t.mainAtReset := by
  cases hsupply : supplyRow c with
  | true =>
    obtain ⟨t', ht', heffect⟩ := exec_supplyRow hsupply s
    obtain rfl : t' = t := Host.Outcome.next.inj (ht'.symm.trans h)
    exact heffect.mainAtReset hs ht
  | false =>
    obtain ⟨t', ht', haffects⟩ := exec_affects hsupply s
    obtain rfl : t' = t := Host.Outcome.next.inj (ht'.symm.trans h)
    have hdown : ¬ s.mainUp := mt (affects_mainUp haffects).2 ht
    obtain ⟨t'', ht'', hsame⟩ := exec_down hsupply hdown
    obtain rfl : t'' = t' := Host.Outcome.next.inj (ht''.symm.trans h)
    exact (hs hdown).of_sameMain hsame

theorem step_mainAtReset {s t : State} (h : step s = .next t) (hs : ¬ s.mainUp → s.mainAtReset) (ht : ¬ t.mainUp) :
    t.mainAtReset := by
  unfold step at h
  split at h
  case h_1 =>
    obtain rfl := Host.Outcome.next.inj h
    have hdown : ¬ s.mainUp := mt (affects_mainUp (oscillatorPeriod_affects s)).2 ht
    exact (hs hdown).of_sameMain (oscillatorPeriod_down hdown)
  case h_2 c rest _ => exact exec_mainAtReset h hs ht

theorem step_backup {s t : State} (h : step s = .next t) (hs : s.power.vmainGood = true → s.power.backupHeld = true) :
    t.power.vmainGood = true → t.power.backupHeld = true := by
  have haffects {s t : State} (h : s.affects t) (hs : s.power.vmainGood = true → s.power.backupHeld = true) :
      t.power.vmainGood = true → t.power.backupHeld = true := by
    obtain ⟨hgood, hheld, -⟩ := affects_power h
    rwa [hgood, hheld]
  unfold step at h
  split at h
  case h_1 =>
    obtain rfl := Host.Outcome.next.inj h
    exact haffects (oscillatorPeriod_affects s) hs
  case h_2 c rest _ =>
    obtain hrow | hrow := exec_cases h
    · exact hrow.backup hs
    · exact haffects hrow hs

theorem step_powerSound {s t : State} (hs : PowerSound s) (h : step s = .next t) : PowerSound t := by
  obtain ⟨hticks, hbackup, hdown⟩ := hs
  refine ⟨step_ticks hticks (fun hno => ?_) h, step_backup h hbackup, step_mainAtReset h hdown⟩
  obtain ⟨-, -, hdu, hser, -⟩ := hdown hno
  exact ticksTaken_reset hdu hser

/-- Settles O59: one lemma for each of the five invariants. -/
theorem everyStepKeepsRegistersSound : Obligations.EveryStepKeepsRegistersSound :=
  ⟨fun _ _ => step_timeSound, fun _ _ => step_noticesSound, fun _ _ => step_storeSound, fun _ _ => step_linesSound,
    fun _ _ => step_powerSound⟩

/-! ## The part after a cold start -/

theorem messagesSound_reset : MessagesSound State.reset :=
  messagesSound_of_idle queueSound_reset queue_reset
    (fun m => ⟨by simp [State.reset, MessageMemory.lost, Descriptor.undefined],
      by simp [State.reset, MessageMemory.lost, Descriptor.undefined],
      by simp [State.reset, MessageMemory.lost, Descriptor.undefined]⟩)
    fun m => by simp [State.reset, MessageMemory.lost, Descriptor.undefined]

/-- Settles O60. -/
theorem resetStateIsSound : Obligations.ResetStateIsSound := by
  refine ⟨(agendaSound_iff _).2 ⟨reset_slotsSound, ?_⟩, messagesSound_reset, captureSound_reset rfl rfl, timeSound_coldStart,
    noticesSound_reset, storeSound_empty, dispatchUnit_sound_reset, .inl (ticksTaken_reset rfl rfl), fun _ => rfl, fun hno => ?_⟩
  · simp [RequestsSound, State.reset, Triggers.reset]
  · exact absurd ⟨rfl, rfl⟩ hno

end Sys2Proof.Machine
end

section
/-! SUPPORT. The tick at the Time Base (R1 to R3) and at the event inputs (R129). -/

namespace Sys2Proof.Machine

/-! ## The Time Base takes a tick (R2, R3) -/

theorem tickTimeBase_tb (s : State) : (tickTimeBase s).tb =
    if s.tb.run = .running then
      if s.tb.count = Config.endTime then { s.tb with run := .stopped, phase := 0 }
      else { s.tb with count := s.tb.count + 1, phase := 0 }
    else { s.tb with phase := 0 } := by
  unfold tickTimeBase
  dsimp only
  cases s.tb.run with
  | stopped => rfl
  | running =>
    simp only [if_true]
    split_ifs <;> rfl

theorem tickTimeBase_niu (s : State) : (tickTimeBase s).niu =
    if s.tb.run = .running ∧ s.tb.count = Config.endTime ∧ s.mainUp then
      { s.niu with faults := s.niu.faults ||| 0x10 } else s.niu := by
  have halive : ∀ tb : TimeBase, ({ s with tb := tb } : State).mainAlive = true ↔ s.mainUp := fun _ => mainAlive_iff s
  unfold tickTimeBase
  dsimp only
  cases hrun : s.tb.run with
  | stopped => rfl
  | running =>
    by_cases hend : s.tb.count = Config.endTime
    · by_cases hup : s.mainUp
      · rw [if_pos hend, if_pos ((halive _).2 hup), if_pos ⟨rfl, hend, hup⟩]
        rfl
      · rw [if_pos hend, if_neg (mt (halive _).1 hup), if_neg fun h => hup h.2.2]
    · rw [if_neg hend, if_neg fun h => hend h.2.1]

theorem exec_tick_short {s : State} {order : TickOrder} (hheld : s.power.backupHeld = true)
    (h : s.tb.phase + order.waited.val + 1 < 8) (ev : BitVec 4) :
    exec (.tick ev order) s = .next { s with tb := { s.tb with phase := s.tb.phase + order.waited.val + 1 } } :=
  congrArg Host.Outcome.next ((passPeriods_short _ ev order s h).trans (if_pos hheld))

theorem exec_tick_issues {s : State} {order : TickOrder} (hheld : s.power.backupHeld = true)
    (h : 8 ≤ s.tb.phase + order.waited.val + 1) (ev : BitVec 4) :
    exec (.tick ev order) s = .next (issueTick ev order s) :=
  congrArg Host.Outcome.next (passPeriods_tick _ ev order s h hheld)

theorem tickTimeBase_mainUp (s : State) : (tickTimeBase s).mainUp ↔ s.mainUp := by
  rw [State.mainUp, tickTimeBase_power]

/-- Settles O7: what a tick reaches is the Time Base, and while the main domain is up the blocks that count or sample at it. -/
theorem tickMovesTheCount : Obligations.TickMovesTheCount := by
  intro s ev order hheld
  refine ⟨fun h => exec_tick_short hheld h ev, fun h => ⟨_, exec_tick_issues hheld h ev, ?_⟩⟩
  refine ⟨?_, ?_, ?_, ?_, ?_, ?_, ?_, ?_, ?_, ?_, ?_, fun hdown => ?_⟩
  case refine_12 =>
    have hlow : ¬ (tickTimeBase s).mainUp := mt (tickTimeBase_mainUp s).1 hdown
    simp only [issueTick, whenMain_down _ _ hlow]
    exact ⟨tickTimeBase_du s, tickTimeBase_ser s, tickTimeBase_evi s⟩
  all_goals rw [issueTick_frame]
  · exact tickTimeBase_tb s
  · exact tickTimeBase_niu s

/-! ## The blocks of the main domain (R71, R103, R129) -/

/-- The stamp of the edges found at a tick (R6, R130, log 5). -/
def State.tickStamp (order : TickOrder) (s : State) : Stamp :=
  if order.edgeStampBefore then s.now else (tickTimeBase s).now

/-- The part after the Time Base has taken a tick, with each other block having taken it, or still to. -/
def State.tickOut (ev : BitVec 4) (order : TickOrder) (s : State) : State :=
  { s with
    tb := (tickTimeBase s).tb
    niu := (tickTimeBase s).niu
    du := tickLines order.lateDu s.du
    ser := { s.ser with chans := { a := { s.chan .a with tx := tickTransmitter order.lateTxA (s.tx .a) }
                                   b := { s.chan .b with tx := tickTransmitter order.lateTxB (s.tx .b) } } }
    evi := sampleEvents ev (s.tickStamp order) s.evi }

theorem issueTick_up {s : State} (h : s.mainUp) (ev : BitVec 4) (order : TickOrder) :
    issueTick ev order s = bringTicks (s.tickOut ev order) := by
  simp only [issueTick, whenMain_up _ _ ((tickTimeBase_mainUp s).2 h)]
  refine congrArg bringTicks ?_
  rw [tickTimeBase_frame]
  rfl

/-! ## The event inputs (R129) -/

theorem enabledEdge_eq_some (evi : EventInputs) (ev : BitVec 4) (n m : Fin 4) (d : EdgeDir) :
    enabledEdge evi ev n = some (m, d) ↔ m = n ∧
      (d = .rising ∧ evi.last[n] = some false ∧ ev.getLsbD n.val = true ∧ evi.rising.getLsbD n.val = true ∨
        d = .falling ∧ evi.last[n] = some true ∧ ev.getLsbD n.val = false ∧ evi.falling.getLsbD n.val = true) := by
  unfold enabledEdge
  generalize evi.last[n] = last, ev.getLsbD n.val = level, evi.rising.getLsbD n.val = rising,
    evi.falling.getLsbD n.val = falling
  rcases last with _ | last
  · simp [edgeBetween]
  · cases last <;> cases level <;> cases rising <;> cases falling <;> simp [edgeBetween, eq_comm]

/-- The edges found at a tick, in line order. -/
def EventInputs.edges (evi : EventInputs) (ev : BitVec 4) : List (Fin 4 × EdgeDir) :=
  ([0, 1, 2, 3] : List (Fin 4)).filterMap (enabledEdge evi ev)

theorem mem_edges (evi : EventInputs) (ev : BitVec 4) (n : Fin 4) (d : EdgeDir) :
    (n, d) ∈ evi.edges ev ↔ enabledEdge evi ev n = some (n, d) := by
  rw [EventInputs.edges, List.mem_filterMap]
  constructor
  · rintro ⟨m, -, hm⟩
    obtain ⟨rfl, -⟩ := (enabledEdge_eq_some evi ev m n d).1 hm
    exact hm
  · have hall : ∀ n : Fin 4, n ∈ [0, 1, 2, 3] := by decide
    exact fun h => ⟨n, hall n, h⟩

theorem edges_pairwise (evi : EventInputs) (ev : BitVec 4) : (evi.edges ev).Pairwise fun x y => x.1 < y.1 := by
  refine List.Pairwise.filterMap (R := fun m n : Fin 4 => m < n) _ (fun m n hlt x hx y hy => ?_) (by decide)
  obtain ⟨hm, -⟩ := (enabledEdge_eq_some evi ev m x.1 x.2).1 hx
  obtain ⟨hn, -⟩ := (enabledEdge_eq_some evi ev n y.1 y.2).1 hy
  rwa [hm, hn]

/-- The group of edges that waits after a tick, if any were found (R130). -/
def EventInputs.group (evi : EventInputs) (ev : BitVec 4) (stamp : Stamp) : List EdgeGroup :=
  if (evi.edges ev).isEmpty then [] else [{ edges := evi.edges ev, stamp := stamp }]

theorem sampleEvents_found (ev : BitVec 4) (stamp : Stamp) (evi : EventInputs) :
    (sampleEvents ev stamp evi).found = evi.found ++ evi.group ev stamp := by
  show (if (evi.edges ev).isEmpty then evi.found else evi.found ++ _) = _
  unfold EventInputs.group
  split_ifs
  · rw [List.append_nil]
  · rfl

theorem group_cases (evi : EventInputs) (ev : BitVec 4) (stamp : Stamp) :
    evi.edges ev = [] ∧ evi.group ev stamp = [] ∨ evi.group ev stamp = [{ edges := evi.edges ev, stamp := stamp }] := by
  unfold EventInputs.group
  split_ifs with hempty
  · exact .inl ⟨List.isEmpty_iff.1 hempty, rfl⟩
  · exact .inr rfl

/-- Settles O9. -/
theorem tickSamplesTheEventInputs : Obligations.TickSamplesTheEventInputs := by
  intro s ev order hheld hup h
  have hevi : (issueTick ev order s).evi = sampleEvents ev (s.tickStamp order) s.evi := by
    rw [issueTick_up hup, bringTicks_evi]
    rfl
  have htb : (issueTick ev order s).tb = (tickTimeBase s).tb := by rw [issueTick_frame]
  refine ⟨_, s.evi.group ev (s.tickStamp order), exec_tick_issues hheld h ev, ?_⟩
  rw [hevi, htb]
  refine ⟨fun n => by simp [sampleEvents], rfl, rfl, sampleEvents_found .., fun n d => ?_, ?_, fun g hg => ?_⟩
  · have hedge := (mem_edges s.evi ev n d).trans (enabledEdge_eq_some s.evi ev n n d)
    rw [and_iff_right rfl] at hedge
    rw [← hedge]
    obtain ⟨hnone, hgroup⟩ | hgroup := group_cases s.evi ev (s.tickStamp order)
    · simp [hnone, hgroup]
    · simp [hgroup]
  · obtain ⟨-, hgroup⟩ | hgroup := group_cases s.evi ev (s.tickStamp order) <;> simp [hgroup]
  · obtain ⟨-, hgroup⟩ | hgroup := group_cases s.evi ev (s.tickStamp order)
    · simp [hgroup] at hg
    · rw [hgroup] at hg
      obtain rfl := List.mem_singleton.1 hg
      exact ⟨edges_pairwise s.evi ev, rfl⟩

end Sys2Proof.Machine
end

section
/-! SUPPORT. Ticks that come late (R71, R103, logs 5 and 6): a tick on its way is counted once, by the block's own event or with
the occurrence taken at it. -/

namespace Sys2Proof.Machine

/-! ## Ticks taken late -/

theorem takeTick_tickOwed (t : Transmitter) : t.takeTick.tickOwed = t.tickOwed := by
  unfold Transmitter.takeTick
  split_ifs <;> rfl

/-- A late tick is the same tick (R71). -/
theorem tickLines_settle (late : Bool) (d : DispatchUnit) : (tickLines late d).settle = d.settle.takeTick := by
  have howed := settle_tickOwed d
  cases late with
  | false => exact settle_lines_not_owed _ howed
  | true =>
    show { d.settle.takeTick with tickOwed := false } = d.settle.takeTick
    rw [← howed]
    rfl

theorem tickTransmitter_settle (late : Bool) (t : Transmitter) : (tickTransmitter late t).settle = t.settle.takeTick := by
  have howed := settle_tx_tickOwed t
  cases late with
  | false => exact settle_not_owed _ ((takeTick_tickOwed _).trans howed)
  | true =>
    show { Transmitter.takeTick { t.settle with tickOwed := true } with tickOwed := false } = t.settle.takeTick
    unfold Transmitter.takeTick
    split_ifs <;> (rw [← howed])

/-- The part with every tick on its way taken. -/
def State.settled (s : State) : State :=
  { s with
    du := s.du.settle
    ser := { s.ser with chans := { a := { s.chan .a with tx := (s.tx .a).settle }
                                   b := { s.chan .b with tx := (s.tx .b).settle } } } }

theorem bringTicks_eq (s : State) : s.ticksMayWait ∧ bringTicks s = s ∨ ¬ s.ticksMayWait ∧ bringTicks s = s.settled := by
  by_cases h : s.ticksMayWait
  · exact .inl ⟨h, bringTicks_waits h⟩
  · exact .inr ⟨h, bringTicks_brings h⟩

theorem settled_ticksTaken (s : State) : s.settled.ticksTaken :=
  ⟨settle_tickOwed _, settle_tx_tickOwed _, settle_tx_tickOwed _⟩

theorem bringTicks_ticksMayWait (s : State) : (bringTicks s).ticksMayWait ↔ s.ticksMayWait := by
  rw [bringTicks_frame]

/-- Whatever is late of a tick, it leaves the same once taken. -/
theorem tickOut_settled {order order' : TickOrder} (h : order'.edgeStampBefore = order.edgeStampBefore) (s : State)
    (ev : BitVec 4) : (s.tickOut ev order').settled = (s.tickOut ev order).settled := by
  have hstamp : s.tickStamp order' = s.tickStamp order := by rw [State.tickStamp, State.tickStamp, h]
  simp only [State.settled, State.tickOut, State.chan, State.tx, PerChannel.get, tickLines_settle, tickTransmitter_settle,
    hstamp]

/-- Two orders of one tick leave the same, or each block's tick where it may wait. -/
theorem issueTick_orders {s : State} (h : s.mainUp) (ev : BitVec 4) {order order' : TickOrder}
    (hstamp : order'.edgeStampBefore = order.edgeStampBefore) :
    issueTick ev order' s = issueTick ev order s ∨
      issueTick ev order' s = s.tickOut ev order' ∧ issueTick ev order s = s.tickOut ev order := by
  rw [issueTick_up h, issueTick_up h]
  obtain ⟨hwait, heq⟩ | ⟨hno, heq⟩ := bringTicks_eq (s.tickOut ev order)
  · exact .inr ⟨bringTicks_waits hwait, heq⟩
  · refine .inl ?_
    rw [heq, bringTicks_brings (s := s.tickOut ev order') hno]
    exact tickOut_settled hstamp s ev

theorem issueTick_mainUp {s : State} (h : s.mainUp) (ev : BitVec 4) (order : TickOrder) : (issueTick ev order s).mainUp := by
  rw [issueTick_frame]
  exact h

theorem exec_pulseEnd_congr {s t : State} (hs : s.mainUp) (ht : t.mainUp)
    (h : { s with du := s.du.settle } = { t with du := t.du.settle }) : exec .pulseEnd s = exec .pulseEnd t := by
  rw [exec_pulseEnd hs, exec_pulseEnd ht, State.pulseEnded, State.pulseEnded, h]

/-- The boundaries on a line are taken with the transmitter's tick taken (R103). -/
theorem exec_boundary_congr {s t : State} {ch : Channel} (hs : s.mainUp) (ht : t.mainUp)
    (h : s.withTx ch (s.tx ch).settle = t.withTx ch (t.tx ch).settle) :
    ∀ c ∈ [Instr.txCharacterEnd ch, .txBreakTimeEnd ch, .txLeadEnd ch], exec c s = exec c t := by
  have hboundary (f : State → State) : (Host.Outcome.next (atBoundary ch s f) : Answer) = .next (atBoundary ch t f) := by
    rw [atBoundary, atBoundary, whenMain_up s _ hs, whenMain_up t _ ht, h]
  simp only [List.forall_mem_cons]
  exact ⟨hboundary _, hboundary _, hboundary _, by simp⟩

/-! ## What a tick does to a line and a transmitter (R71, R72, R103) -/

theorem issueTick_du {s : State} (h : s.mainUp) (ev : BitVec 4) {order : TickOrder} (hlate : order.lateDu = false)
    (howed : s.du.tickOwed = false) : (issueTick ev order s).du = s.du.takeTick := by
  have hout : (s.tickOut ev order).du = s.du.takeTick := by
    rw [State.tickOut, hlate]
    exact congrArg DispatchUnit.takeTick (settle_lines_not_owed _ howed)
  rw [issueTick_up h]
  obtain ⟨-, heq⟩ | ⟨-, heq⟩ := bringTicks_eq (s.tickOut ev order)
  · rw [heq, hout]
  · rw [heq, State.settled, hout]
    exact settle_lines_not_owed _ howed

theorem tickOut_tx (s : State) (ev : BitVec 4) (order : TickOrder) (ch : Channel) : (s.tickOut ev order).tx ch =
    tickTransmitter (if ch = .a then order.lateTxA else order.lateTxB) (s.tx ch) := by
  cases ch <;> rfl

theorem settled_tx (s : State) (ch : Channel) : s.settled.tx ch = (s.tx ch).settle := by cases ch <;> rfl

theorem issueTick_tx {s : State} (h : s.mainUp) (ev : BitVec 4) {order : TickOrder} {ch : Channel}
    (hlate : (if ch = .a then order.lateTxA else order.lateTxB) = false) (howed : (s.tx ch).tickOwed = false) :
    (issueTick ev order s).tx ch = (s.tx ch).takeTick := by
  have hout : (s.tickOut ev order).tx ch = (s.tx ch).takeTick := by
    rw [tickOut_tx, hlate]
    exact congrArg Transmitter.takeTick (settle_not_owed _ howed)
  rw [issueTick_up h]
  obtain ⟨-, heq⟩ | ⟨-, heq⟩ := bringTicks_eq (s.tickOut ev order)
  · rw [heq, hout]
  · rw [heq, settled_tx, hout]
    exact settle_not_owed _ ((takeTick_tickOwed _).trans howed)

/-- A tick at one line: its return counts down, or ends there (R71, R72). -/
theorem takeTick_line (d : DispatchUnit) (n : Fin 8) :
    d.takeTick.lines[n].driven = d.lines[n].driven ∧ d.takeTick.lines[n].source = d.lines[n].source ∧
      (d.lines[n].pending = none → d.takeTick.lines[n] = d.lines[n]) ∧
      (∀ v r, d.lines[n].pending = some { level := v, remaining := r } → r ≤ 1 →
        d.takeTick.lines[n].level = v ∧ d.takeTick.lines[n].pending = none) ∧
      (∀ v r, d.lines[n].pending = some { level := v, remaining := r } → 2 ≤ r →
        d.takeTick.lines[n].level = d.lines[n].level ∧
        d.takeTick.lines[n].pending = some { level := v, remaining := r - 1 }) := by
  have hline : d.takeTick.lines[n] = d.lines[n].takeTick := by simp [DispatchUnit.takeTick]
  rw [hline]
  generalize d.lines[n] = l
  obtain ⟨hnone, heq⟩ | ⟨p, hsome, hlast, heq⟩ | ⟨p, hsome, hmore, heq⟩ := l.takeTick_cases
  · rw [heq, hnone]
    exact ⟨rfl, rfl, fun _ => rfl, by simp, by simp⟩
  · rw [heq, hsome]
    refine ⟨rfl, rfl, by simp, fun v r hp _ => ?_, fun v r hp hr => ?_⟩
    · obtain rfl := Option.some.inj hp
      exact ⟨rfl, rfl⟩
    · obtain rfl := Option.some.inj hp
      exact absurd hr (Nat.not_le.2 (Nat.lt_succ_of_le hlast))
  · rw [heq, hsome]
    refine ⟨rfl, rfl, by simp, fun v r hp hr => ?_, fun v r hp _ => ?_⟩
    · obtain rfl := Option.some.inj hp
      exact absurd hmore (Nat.not_le.2 (Nat.lt_succ_of_le hr))
    · obtain rfl := Option.some.inj hp
      exact ⟨rfl, rfl⟩

/-- What of the lines' and channels' registers no tick touches. -/
structure SameRegisters (s t : State) : Prop where
  channel : ∀ ch, t.rx ch = s.rx ch ∧ (t.chan ch).config = (s.chan ch).config
  loop : t.ser.loop = s.ser.loop
  staging : t.ser.staging = s.ser.staging
  copy : t.ser.copy = s.ser.copy
  lineStaging : t.du.staging = s.du.staging
  lineCopy : t.du.copy = s.du.copy

theorem SameRegisters.trans {s t u : State} (h : SameRegisters s t) (h' : SameRegisters t u) : SameRegisters s u :=
  ⟨fun ch => ⟨(h'.channel ch).1.trans (h.channel ch).1, (h'.channel ch).2.trans (h.channel ch).2⟩, h'.loop.trans h.loop,
    h'.staging.trans h.staging, h'.copy.trans h.copy, h'.lineStaging.trans h.lineStaging, h'.lineCopy.trans h.lineCopy⟩

theorem settle_registers (d : DispatchUnit) : d.settle.staging = d.staging ∧ d.settle.copy = d.copy := by
  unfold DispatchUnit.settle
  split_ifs <;> exact ⟨rfl, rfl⟩

theorem SameRegisters.of_bringTicks (s : State) : SameRegisters s (bringTicks s) := by
  obtain ⟨-, heq⟩ | ⟨-, heq⟩ := bringTicks_eq s
  · rw [heq]
    exact ⟨fun _ => ⟨rfl, rfl⟩, rfl, rfl, rfl, rfl, rfl⟩
  · rw [heq]
    obtain ⟨hstaging, hcopy⟩ := settle_registers s.du
    exact ⟨fun ch => by cases ch <;> exact ⟨rfl, rfl⟩, rfl, rfl, rfl, hstaging, hcopy⟩

theorem SameRegisters.of_tickOut (s : State) (ev : BitVec 4) (order : TickOrder) : SameRegisters s (s.tickOut ev order) := by
  obtain ⟨hstaging, hcopy⟩ := settle_registers s.du
  refine ⟨fun ch => by cases ch <;> exact ⟨rfl, rfl⟩, rfl, rfl, rfl, ?_, ?_⟩
  · cases hlate : order.lateDu <;> simpa only [State.tickOut, hlate] using! hstaging
  · cases hlate : order.lateDu <;> simpa only [State.tickOut, hlate] using! hcopy

/-! ## Ticks on their way to an occurrence (R51, R71, R103) -/

/-- The part with a tick on its way to the blocks named, and to no other. -/
def State.owing (d a b : Bool) (s : State) : State :=
  { s with
    du := { s.du with tickOwed := d }
    ser := { s.ser with chans := { a := { s.chan .a with tx := { s.tx .a with tickOwed := a } }
                                   b := { s.chan .b with tx := { s.tx .b with tickOwed := b } } } } }

section
variable (d a b : Bool) (s : State)

theorem postIf_owing (wanted : Bool) (body : NoticeBody) :
    postIf wanted body (s.owing d a b) = (postIf wanted body s).owing d a b := by
  rw [postIf_eq_took, postIf_eq_took]
  rfl

theorem settleOccurrence_owing (i : Fin 64) (onSpent : Bool) (e : Entry × Option SpentReason) :
    settleOccurrence i onSpent e (s.owing d a b) = (settleOccurrence i onSpent e s).owing d a b := by
  unfold settleOccurrence
  split
  · rfl
  · exact postIf_owing d a b { s with au := putSlot i _ s.au } onSpent _

/-- The tick that is on its way to a transmitter, of the three that may be. -/
def owedBy (ch : Channel) : Bool :=
  match ch with
  | .a => a
  | .b => b

theorem putOnLine_owing (ch : Channel) (t : Transmitter) :
    putOnLine ch { t with tickOwed := owedBy a b ch } (s.owing d a b) = (putOnLine ch t s).owing d a b := by
  by_cases hloop : s.ser.loop = true
  · refine (if_pos hloop).trans (Eq.trans ?_ (congrArg (State.owing d a b) (if_pos hloop).symm))
    cases ch <;> rfl
  · refine (if_neg hloop).trans (Eq.trans ?_ (congrArg (State.owing d a b) (if_neg hloop).symm))
    cases ch <;> rfl

theorem joinQueue_owing (ch : Channel) (r : Request) : joinQueue ch r (s.owing d a b) = (joinQueue ch r s).owing d a b := by
  have htx : (s.owing d a b).tx ch = { s.tx ch with tickOwed := owedBy a b ch } := by cases ch <;> rfl
  have hbegins : Transmitter.startHead s.mm false { (s.owing d a b).tx ch with queue := [r] } =
      { Transmitter.startHead s.mm false { s.tx ch with queue := [r] } with tickOwed := owedBy a b ch } := by
    rw [htx]
    cases r <;> rfl
  unfold joinQueue
  dsimp only
  have hqueue : ((s.owing d a b).tx ch).queue = (s.tx ch).queue := by rw [htx]
  rw [hqueue]
  split_ifs
  · exact (congrArg (putOnLine ch · _) hbegins).trans (putOnLine_owing ..)
  · cases ch <;> rfl

theorem joinSend_owing (ch : Channel) (m : Fin 32) (source : Source) (notify : Bool) :
    joinSend ch m source notify (s.owing d a b) = (joinSend ch m source notify s).owing d a b := by
  rw [joinSend, joinQueue_owing]
  rfl

theorem occurrenceSend_owing (i : Fin 64) (e : Entry) : occurrenceSend i e (s.owing d a b) =
    ((occurrenceSend i e s).1.owing d a b, (occurrenceSend i e s).2) := by
  have hrefusal (m : Fin 32) : sendRefusal (s.owing d a b) e.channel m = sendRefusal s e.channel m := by
    cases e.channel <;> rfl
  unfold occurrenceSend
  split
  · rfl
  · rw [hrefusal]
    split
    · rw [joinSend_owing]
    · rfl

theorem occurrenceChain_owing (e : Entry) : occurrenceChain e (s.owing d a b) =
    ((occurrenceChain e s).1.owing d a b, (occurrenceChain e s).2) := by
  unfold occurrenceChain
  split
  · rfl
  · next c _ =>
    by_cases hheld : s.au.slots[c].state = .held ∧ e.due + e.chainDelay ≤ Config.endTime
    · rw [if_pos hheld]
      exact if_pos hheld
    · rw [if_neg hheld]
      exact if_neg hheld

theorem performOccurrence_owing (i : Fin 64) (e : Entry) :
    performOccurrence i e (s.owing d a b) = (performOccurrence i e s).owing d a b := by
  have hlined : (if e.setMask = 0 ∧ e.clearMask = 0 then s.owing d a b
      else { s.owing d a b with du := lineAction e.setMask e.clearMask e.pulseWidth (.slot i) (s.owing d a b).du }) =
      (if e.setMask = 0 ∧ e.clearMask = 0 then s
      else { s with du := lineAction e.setMask e.clearMask e.pulseWidth (.slot i) s.du }).owing d a b := by
    split_ifs <;> rfl
  unfold performOccurrence
  dsimp only
  rw [hlined, occurrenceSend_owing]
  dsimp only
  rw [occurrenceChain_owing]
  dsimp only
  rw [postIf_owing]
  exact settleOccurrence_owing d a b _ i _ _

theorem missOccurrence_owing (i : Fin 64) (e : Entry) :
    missOccurrence i e (s.owing d a b) = (missOccurrence i e s).owing d a b := by
  unfold missOccurrence
  dsimp only
  rw [postIf_owing]
  exact settleOccurrence_owing d a b _ i _ _

theorem takeOccurrence_owing (i : Fin 64) (rest : List (Fin 64)) :
    takeOccurrence i rest (s.owing d a b) = (takeOccurrence i rest s).owing d a b := by
  have hlist : ({ s.owing d a b with au := { s.au with dueList := rest } } : State) = (s.withDueList rest).owing d a b := rfl
  show (if s.tb.count - s.au.slots[i].entry.due ≤ s.au.slots[i].entry.tolerance then
    performOccurrence i s.au.slots[i].entry ((s.withDueList rest).owing d a b)
    else missOccurrence i s.au.slots[i].entry ((s.withDueList rest).owing d a b)) = State.owing d a b (if _ then _ else _)
  split_ifs
  · exact performOccurrence_owing ..
  · exact missOccurrence_owing ..

end

theorem owing_owingNothing (s : State) :
    s.owingNothing.owing s.du.tickOwed (s.tx .a).tickOwed (s.tx .b).tickOwed = s := rfl

theorem owing_tx (d a b : Bool) (s : State) (ch : Channel) :
    (s.owing d a b).tx ch = { s.tx ch with tickOwed := owedBy a b ch } := by cases ch <;> rfl

theorem SameRegisters.of_owing (d a b : Bool) (s : State) : SameRegisters s (s.owing d a b) :=
  ⟨fun ch => by cases ch <;> exact ⟨rfl, rfl⟩, rfl, rfl, rfl, rfl, rfl⟩

theorem settle_owing_du {d : DispatchUnit} (h : d.tickOwed = false) (owed : Bool) :
    DispatchUnit.settle { d with tickOwed := owed } = if owed then d.takeTick else d := by
  cases owed with
  | true =>
    show { d.takeTick with tickOwed := false } = d.takeTick
    rw [← h]
    rfl
  | false =>
    show { d with tickOwed := false } = d
    rw [← h]

theorem settle_owing_tx {t : Transmitter} (h : t.tickOwed = false) (owed : Bool) :
    Transmitter.settle { t with tickOwed := owed } = if owed then t.takeTick else t := by
  cases owed with
  | true =>
    show { Transmitter.takeTick { t with tickOwed := true } with tickOwed := false } = t.takeTick
    unfold Transmitter.takeTick
    split_ifs <;> (rw [← h])
  | false =>
    show { t with tickOwed := false } = t
    rw [← h]

theorem bringTicks_owing_waits {v : State} (hwait : v.ticksMayWait) (d a b : Bool) :
    (bringTicks (v.owing d a b)).du = { v.du with tickOwed := d } ∧
      ∀ ch, (bringTicks (v.owing d a b)).tx ch = { v.tx ch with tickOwed := owedBy a b ch } := by
  rw [bringTicks_waits (s := v.owing d a b) hwait]
  exact ⟨rfl, owing_tx d a b v⟩

theorem bringTicks_owing_brings {v : State} (hv : v.ticksTaken) (hno : ¬ v.ticksMayWait) (d a b : Bool) :
    (bringTicks (v.owing d a b)).du = (if d then v.du.takeTick else v.du) ∧
      ∀ ch, (bringTicks (v.owing d a b)).tx ch = if owedBy a b ch then (v.tx ch).takeTick else v.tx ch := by
  obtain ⟨hdu, htx⟩ := (ticksTaken_iff v).1 hv
  obtain ⟨hwait, -⟩ | ⟨-, heq⟩ := bringTicks_eq (v.owing d a b)
  · exact absurd hwait hno
  · rw [heq]
    refine ⟨settle_owing_du hdu d, fun ch => ?_⟩
    rw [settled_tx, owing_tx]
    exact settle_owing_tx (htx ch) _

theorem tickCountsPulses (s : State) (ev : BitVec 4) (order : TickOrder) (hheld : s.power.backupHeld = true)
    (hup : s.mainUp) (hpass : 8 ≤ s.tb.phase + order.waited.val + 1) :
    ∃ t, exec (.tick ev order) s = .next t ∧
      (¬ t.ticksMayWait → t.ticksTaken ∧
        exec (.tick ev { order with lateDu := false, lateTxA := false, lateTxB := false }) s = .next t) ∧
      (order.lateDu = false → s.du.tickOwed = false → t.du = s.du.takeTick) ∧
      (∀ ch, (if ch = .a then order.lateTxA else order.lateTxB) = false → s.sends ch → t.tx ch = (s.tx ch).takeTick) ∧
      SameRegisters s t ∧
      (order.lateDu = false → ∃ late, exec (.tick ev { order with lateDu := true }) s = .next late ∧
        exec .pulseEnd late = exec .pulseEnd t) ∧
      (order.lateTxA = false → ∃ late, exec (.tick ev { order with lateTxA := true }) s = .next late ∧
        ∀ c ∈ [Instr.txCharacterEnd .a, .txBreakTimeEnd .a, .txLeadEnd .a], exec c late = exec c t) ∧
      (order.lateTxB = false → ∃ late, exec (.tick ev { order with lateTxB := true }) s = .next late ∧
        ∀ c ∈ [Instr.txCharacterEnd .b, .txBreakTimeEnd .b, .txLeadEnd .b], exec c late = exec c t) := by
  have hissues {order' : TickOrder} (hwaited : order'.waited = order.waited) :
      exec (.tick ev order') s = .next (issueTick ev order' s) := exec_tick_issues hheld (by rw [hwaited]; exact hpass) ev
  have hmain := issueTick_mainUp hup ev
  refine ⟨_, hissues rfl, fun hno => ?_, issueTick_du hup ev, fun ch hlate hsends => issueTick_tx hup ev hlate hsends.2, ?_,
    fun hlate => ⟨_, hissues rfl, ?_⟩, fun hlate => ⟨_, hissues rfl, ?_⟩, fun hlate => ⟨_, hissues rfl, ?_⟩⟩
  · rw [issueTick_up hup] at hno ⊢
    rw [bringTicks_ticksMayWait] at hno
    have hprompt := hissues (order' := { order with lateDu := false, lateTxA := false, lateTxB := false }) rfl
    refine ⟨bringTicks_brings hno ▸ settled_ticksTaken _, hprompt.trans (congrArg _ ?_)⟩
    rw [issueTick_up hup, bringTicks_brings hno]
    exact (bringTicks_brings (by exact hno)).trans (tickOut_settled (by rfl) s ev)
  · rw [issueTick_up hup]
    exact (SameRegisters.of_tickOut s ev order).trans (.of_bringTicks _)
  · refine exec_pulseEnd_congr (hmain _) (hmain _) ?_
    obtain heq | ⟨hlater, hnow⟩ := issueTick_orders hup ev (order := order) (order' := { order with lateDu := true }) rfl
    · rw [heq]
    · rw [hlater, hnow]
      simp only [State.tickOut, tickLines_settle]
      rfl
  · refine exec_boundary_congr (hmain _) (hmain _) ?_
    obtain heq | ⟨hlater, hnow⟩ := issueTick_orders hup ev (order := order) (order' := { order with lateTxA := true }) rfl
    · rw [heq]
    · rw [hlater, hnow, tickOut_tx, tickOut_tx, tickTransmitter_settle, tickTransmitter_settle]
      rfl
  · refine exec_boundary_congr (hmain _) (hmain _) ?_
    obtain heq | ⟨hlater, hnow⟩ := issueTick_orders hup ev (order := order) (order' := { order with lateTxB := true }) rfl
    · rw [heq]
    · rw [hlater, hnow, tickOut_tx, tickOut_tx, tickTransmitter_settle, tickTransmitter_settle]
      rfl

theorem takeTick_elapsed (t : Transmitter) :
    t.takeTick = { t with elapsed := if t.queue = [] then t.elapsed else min (t.elapsed + 1) 65535 } := by
  unfold Transmitter.takeTick
  by_cases hqueue : t.queue = []
  · rw [if_pos hqueue, if_pos (List.isEmpty_iff.2 hqueue)]
  · rw [if_neg hqueue, if_neg (mt List.isEmpty_iff.1 hqueue)]

/-- Settles O8: the lines and the transmitters at one tick, and an occurrence with its ticks set apart from it. -/
theorem tickCountsPulsesAndTransmissions : Obligations.TickCountsPulsesAndTransmissions := by
  refine ⟨fun s ev order hheld hup hpass => ?_, fun s v i rest htakes hv => ?_⟩
  · obtain ⟨t, ht, hprompt, hdu, htx, hsame, hlateDu, hlateA, hlateB⟩ := tickCountsPulses s ev order hheld hup hpass
    refine ⟨t, ht, hprompt, fun hlate howed n => ?_, fun ch hlate hsends => ?_, hsame.channel, hsame.loop, hsame.staging,
      hsame.copy, hsame.lineStaging, hsame.lineCopy, hlateDu, hlateA, hlateB⟩
    · rw [hdu hlate howed]
      exact takeTick_line s.du n
    · rw [htx ch hlate hsends, takeTick_elapsed]
  · have htaken : (takeOccurrence i rest s.owingNothing).ticksTaken := by
      rw [show s.owingNothing = s.owing false false false from rfl, takeOccurrence_owing]
      exact ⟨rfl, rfl, rfl⟩
    have hvtaken : v = takeOccurrence i rest s.owingNothing := by
      rw [exec_occurrence_takes (s := s.owingNothing) htakes] at hv
      rw [← Host.Outcome.next.inj hv]
      exact bringTicks_taken _ htaken.1 fun | .a => htaken.2.1 | .b => htaken.2.2
    have howing : takeOccurrence i rest s = v.owing s.du.tickOwed (s.tx .a).tickOwed (s.tx .b).tickOwed := by
      rw [hvtaken, ← takeOccurrence_owing, owing_owingNothing]
    have howed (ch : Channel) : owedBy (s.tx .a).tickOwed (s.tx .b).tickOwed ch = (s.tx ch).tickOwed := by cases ch <;> rfl
    have hwait : (bringTicks (takeOccurrence i rest s)).ticksMayWait ↔ v.ticksMayWait := by
      rw [bringTicks_ticksMayWait, howing]
      rfl
    have hsame := (SameRegisters.of_owing s.du.tickOwed (s.tx .a).tickOwed (s.tx .b).tickOwed v).trans (.of_bringTicks _)
    refine ⟨_, exec_occurrence_takes htakes, fun hmay => ?_, fun hno => ?_, ?_, ?_, ?_, ?_, ?_⟩
    · obtain ⟨hdu, htx⟩ := bringTicks_owing_waits (hwait.1 hmay) s.du.tickOwed (s.tx .a).tickOwed (s.tx .b).tickOwed
      rw [howing]
      exact ⟨hdu, fun ch => (htx ch).trans (by rw [howed])⟩
    · obtain ⟨hdu, htx⟩ := bringTicks_owing_brings (hvtaken ▸ htaken) (mt hwait.2 hno) s.du.tickOwed (s.tx .a).tickOwed
        (s.tx .b).tickOwed
      rw [howing]
      exact ⟨hdu, fun ch => (htx ch).trans (by rw [howed])⟩
    all_goals rw [howing]
    · exact hsame.channel
    · exact hsame.loop
    · exact hsame.staging
    · exact hsame.copy
    · rw [bringTicks_frame]
      rfl

end Sys2Proof.Machine
end

section
/-! SUPPORT. ENTRY_LOAD with its checks (R29, R30), and the commands that arm and disarm a slot (R40 to R44). -/

namespace Sys2Proof.Machine

/-! ## ENTRY_LOAD -/

section
variable {n : Nat} {b : Byte}

/-- A byte that names neither one of the `n` things nor none. -/
theorem optionalIndex_outside (h : n ≤ b.toNat ∧ b.toNat ≤ 254) : optionalIndex n b = none := by
  have hnone : b ≠ 255 := by
    rintro rfl
    exact absurd h.2 (by decide)
  rw [optionalIndex, dif_neg (Nat.not_lt.2 h.1), if_neg hnone]

theorem optionalIndex_said (hn : n ≤ 255) (h : ¬ (n ≤ b.toNat ∧ b.toNat ≤ 254)) :
    ∃ o, optionalIndex n b = some o ∧ o.map Fin.val = if b.toNat = 255 then none else some b.toNat := by
  by_cases hlt : b.toNat < n
  · refine ⟨some ⟨b.toNat, hlt⟩, dif_pos hlt, ?_⟩
    rw [if_neg (by omega)]
    rfl
  · have hnone : b = 255 := BitVec.eq_of_toNat_eq (by have := b.isLt; simp; omega)
    exact ⟨none, by rw [optionalIndex, dif_neg hlt, if_pos hnone], by simp [hnone]⟩

end

section
variable {i : Fin 64} {st : Vector Byte 28} {au : Agenda}

theorem decideLoad_badPeriod (h : stagedValue st 6 4 = 0 ∧ stagedValue st 10 2 ≠ 0) : decideLoad i st au = (au, .badArg) :=
  if_pos h

theorem decideLoad_badMessage (h : 32 ≤ (stagedByte st 18).toNat ∧ (stagedByte st 18).toNat ≤ 254) :
    decideLoad i st au = (au, .badArg) := by
  simp [decideLoad, optionalIndex_outside h]

theorem decideLoad_badChain (h : 64 ≤ (stagedByte st 21).toNat ∧ (stagedByte st 21).toNat ≤ 254 ∨
    (stagedByte st 21).toNat = i.val) : decideLoad i st au = (au, .badArg) := by
  obtain hout | hself := h
  · simp [decideLoad, optionalIndex_outside hout]
  · have hlt : (stagedByte st 21).toNat < 64 := hself ▸ i.isLt
    have hchain : optionalIndex 64 (stagedByte st 21) = some (some i) :=
      (dif_pos hlt).trans (congrArg (some ∘ some) (Fin.ext hself))
    unfold decideLoad
    rw [hchain]
    split
    · rfl
    · split <;> simp_all

/-- With the arguments in their ranges the due time and the slot's state decide (R29). -/
theorem decideLoad_checked (hperiod : ¬ (stagedValue st 6 4 = 0 ∧ stagedValue st 10 2 ≠ 0))
    {message : Option (Fin 32)} (hmessage : optionalIndex 32 (stagedByte st 18) = some message)
    {chain : Option (Fin 64)} (hchain : optionalIndex 64 (stagedByte st 21) = some chain) (hself : chain ≠ some i) :
    decideLoad i st au =
      if Config.endTime < stagedDue st then (au, .outOfRange)
      else if au.slots[i].state = .armed then (au, .badState)
      else (putSlot i { state := .held, entry := stagedEntry st message chain } au, .ok) := by
  rw [decideLoad, if_neg hperiod, hmessage, hchain]
  exact if_neg hself

end

/-- A slot put back as it was changes nothing. -/
theorem putSlot_same (i : Fin 64) (au : Agenda) : putSlot i au.slots[i] au = au := by simp [putSlot]

/-- A load refused with a code other than OK leaves its slot as it was. -/
theorem exec_load_refused {s : State} {f : InFlight} {i : Fin 64} {code c : ResultCode} {loaded : Slot → Prop} (h : s.mainUp)
    (hf : s.au.inFlight = some f) (hd : decideAgenda f s.tb.count s.au = (s.au, c)) (hcode : code = c) (hc : c ≠ .ok) :
    ∃ x : Slot, exec .agendaCommandCompletion s = .next
        (({ s with au := { s.au with slots := s.au.slots.set i x, inFlight := none } }).answered code) ∧
      (code ≠ .ok → x = s.au.slots[i]) ∧ (code = .ok → loaded x) := by
  subst hcode
  refine ⟨s.au.slots[i], ?_, fun _ => rfl, fun hok => absurd hok hc⟩
  rw [exec_agendaCommandCompletion_of_decided h hf hd]
  simp

/-- Settles O16: one branch for each check in order, then the loaded record. -/
theorem entryLoadChecksThenLoads : Obligations.EntryLoadChecksThenLoads := by
  intro s f i h hf hc hi period repeats due message chain hperiod hrepeats hdue hmessage hchain code hcode
  subst hperiod hrepeats hdue hmessage hchain
  have hdecide := decideAgenda_load s.tb.count s.au hc hi
  by_cases hp : stagedValue f.staging 6 4 = 0 ∧ stagedValue f.staging 10 2 ≠ 0
  · exact exec_load_refused h hf (hdecide.trans (decideLoad_badPeriod hp)) (hcode.trans (if_pos hp)) (by simp)
  rw [if_neg hp] at hcode
  by_cases hm : 32 ≤ (stagedByte f.staging 18).toNat ∧ (stagedByte f.staging 18).toNat ≤ 254
  · exact exec_load_refused h hf (hdecide.trans (decideLoad_badMessage hm)) (hcode.trans (if_pos hm)) (by simp)
  rw [if_neg hm] at hcode
  by_cases ht : 64 ≤ (stagedByte f.staging 21).toNat ∧ (stagedByte f.staging 21).toNat ≤ 254 ∨
      (stagedByte f.staging 21).toNat = i.val
  · exact exec_load_refused h hf (hdecide.trans (decideLoad_badChain ht)) (hcode.trans (if_pos ht)) (by simp)
  rw [if_neg ht] at hcode
  obtain ⟨hrange, hself⟩ := not_or.1 ht
  obtain ⟨message, hmessage, hmessageVal⟩ := optionalIndex_said (by decide) hm
  obtain ⟨chain, hchain, hchainVal⟩ := optionalIndex_said (by decide) hrange
  have hself : chain ≠ some i := by
    rintro rfl
    split at hchainVal
    · simp at hchainVal
    · exact hself (Option.some.inj hchainVal).symm
  have hload := decideLoad_checked (au := s.au) hp hmessage hchain hself
  by_cases hd : Config.endTime < stagedValue f.staging 0 6
  · exact exec_load_refused h hf (hdecide.trans (hload.trans (if_pos hd))) (hcode.trans (if_pos hd)) (by simp)
  rw [if_neg hd] at hcode
  have hload := hload.trans (if_neg hd)
  by_cases ha : s.au.slots[i].state = .armed
  · exact exec_load_refused h hf (hdecide.trans (hload.trans (if_pos ha))) (hcode.trans (if_pos ha)) (by simp)
  obtain rfl := hcode.trans (if_neg ha)
  refine ⟨_, exec_agendaCommandCompletion_of_decided h hf (hdecide.trans (hload.trans (if_neg ha))),
    fun hno => absurd rfl hno, fun _ => ⟨rfl, rfl, rfl, rfl, rfl, rfl, rfl, rfl, rfl, hmessageVal, rfl, rfl, hchainVal, rfl,
      rfl, rfl, rfl, rfl⟩⟩

/-! ## Arming and disarming (R40 to R44) -/

section
variable {f : InFlight} {i : Fin 64} (count : Nat) (au : Agenda)

theorem decideAgenda_armAt (hc : f.command = .armAt) (hi : f.arg.toNat = i.val) :
    decideAgenda f count au = decideArmAt i au := by
  simp [decideAgenda, hc, slotOfArg_below hi]

theorem decideAgenda_armIn (hc : f.command = .armIn) (hi : f.arg.toNat = i.val) :
    decideAgenda f count au = decideArmIn i f.staging count au := by
  simp [decideAgenda, hc, slotOfArg_below hi]

theorem decideAgenda_disarm (hc : f.command = .disarm) (hi : f.arg.toNat = i.val) :
    decideAgenda f count au = decideDisarm i au := by
  simp [decideAgenda, hc, slotOfArg_below hi]

end

/-- The due time at which an arming command arms slot `i`, where it does (R41, R42). -/
def State.armsAt (s : State) (f : InFlight) (i : Fin 64) : Option Nat :=
  if s.au.slots[i].state = .held then
    if f.command = .armAt then some s.au.slots[i].entry.due
    else if f.command = .armIn ∧ s.tb.count + stagedArmIn f.staging ≤ Config.endTime then
      some (s.tb.count + stagedArmIn f.staging)
    else none
  else none

section
variable {s : State} {f : InFlight} {i : Fin 64}

/-- An arming command with a due time arms its slot at it. -/
theorem decideAgenda_arms {due : Nat} (hi : f.arg.toNat = i.val) (h : s.armsAt f i = some due) :
    decideAgenda f s.tb.count s.au = (armSlot i due s.au, .ok) := by
  unfold State.armsAt at h
  split_ifs at h with hheld hat hin
  · obtain rfl := Option.some.inj h
    exact (decideAgenda_armAt _ _ hat hi).trans (if_pos hheld)
  · obtain rfl := Option.some.inj h
    exact (decideAgenda_armIn _ _ hin.1 hi).trans ((if_pos hheld).trans (if_neg (Nat.not_lt.2 hin.2)))

theorem decideAgenda_arms_nothing (hi : f.arg.toNat = i.val) (hc : f.command = .armAt ∨ f.command = .armIn)
    (h : s.armsAt f i = none) : decideAgenda f s.tb.count s.au =
      (s.au, if s.au.slots[i].state = SlotState.held then ResultCode.outOfRange else .badState) := by
  unfold State.armsAt at h
  by_cases hheld : s.au.slots[i].state = .held
  · rw [if_pos hheld] at h ⊢
    obtain hat | hin := hc
    · simp [hat] at h
    · have hend : Config.endTime < s.tb.count + stagedArmIn f.staging := by simpa [hin] using h
      exact (decideAgenda_armIn _ _ hin hi).trans ((if_pos hheld).trans (if_pos hend))
  · rw [if_neg hheld]
    obtain hat | hin := hc
    · exact (decideAgenda_armAt _ _ hat hi).trans (if_neg hheld)
    · exact (decideAgenda_armIn _ _ hin hi).trans (if_neg hheld)

theorem armsAt_held {due : Nat} (h : s.armsAt f i = some due) : s.au.slots[i].state = .held := by
  unfold State.armsAt at h
  split_ifs at h with hheld <;> exact hheld

end

/-- Settles O18: the bad slot number, then the armed slot with the due list in order, the refusals, and the disarmed slot. -/
theorem armingKeepsTheDueListInOrder : Obligations.ArmingKeepsTheDueListInOrder := by
  refine ⟨fun s f h hf ha hc => ?_, fun s f i hs h hf hi delay hdelay armed harmed => ?_⟩
  · have hclear : f.command ≠ .clear := by rintro e; simp [e] at hc
    exact exec_agendaCommandCompletion_of_decided h hf (decideAgenda_badArg _ _ hclear ha)
  subst hdelay
  obtain rfl : armed = s.armsAt f i := harmed
  refine ⟨fun due hdue => ?_, fun hc hnone => ?_, fun hc hstate => ?_, fun hc hstate => ?_⟩
  · have hoff : i ∉ s.au.dueList := mt (hs.dueListSound.listed i).1 (ne_of_eq_of_ne (armsAt_held hdue) (by decide))
    exact ⟨(armSlot i due s.au).dueList, _, exec_agendaCommandCompletion_of_decided h hf (decideAgenda_arms hi hdue), rfl,
      filter_dueInsert _ _ _ hoff, (mem_dueInsert _ _ _ _).2 (.inl rfl),
      armSlot_ordered hoff hs.dueListSound.ordered due⟩
  · exact exec_agendaCommandCompletion_of_decided h hf (decideAgenda_arms_nothing hi hc hnone)
  · exact exec_agendaCommandCompletion_of_decided h hf ((decideAgenda_disarm _ _ hc hi).trans (if_pos hstate))
  · exact exec_agendaCommandCompletion_of_decided h hf ((decideAgenda_disarm _ _ hc hi).trans (if_neg hstate))

end Sys2Proof.Machine
end

section
/-! SUPPORT. The end of an occurrence, performed or missed: what becomes of its slot (R54 to R59), and its notices (R60). -/

namespace Sys2Proof.Machine

/-! ## The advance (R56, R57) -/

/-- Why entry `e` ends that has consumed `consumed` occurrences and whose next due time would be `next`, where it ends. -/
def Entry.ends (e : Entry) (consumed next : Nat) : Option SpentReason :=
  if e.period = 0 then some .oneShot
  else if e.repeats ≠ 0 ∧ e.remaining ≤ consumed then some .repeatDone
  else if Config.endTime < next then some .endOfRange
  else none

/-- The advance keeps the due time of an entry that ends, and counts down what remains of a repeat-limited periodic one. -/
theorem advance_said (e : Entry) (consumed next : Nat) :
    advance e consumed next =
      ({ e with
        due := if e.ends consumed next = none then next else e.due
        remaining := if e.period = 0 ∨ e.repeats = 0 then e.remaining else e.remaining - consumed },
       e.ends consumed next) := by
  unfold Entry.ends
  by_cases hperiod : e.period = 0
  · rw [advance_oneShot hperiod, if_pos hperiod, if_neg (by simp), if_pos (Or.inl hperiod)]
  by_cases hlast : e.repeats ≠ 0 ∧ e.remaining ≤ consumed
  · simp [advance_repeatDone hperiod hlast, hperiod, hlast]
  have hleft : e.left consumed = if e.repeats = 0 then e.remaining else e.remaining - consumed := rfl
  by_cases hend : Config.endTime < next
  · simp [advance_endOfRange hperiod hlast hend, hperiod, hlast, hend, hleft]
  · simp [advance_next hperiod hlast (Nat.not_lt.1 hend), hperiod, hlast, hend, hleft]

/-! ## The settled slot (R56 to R58) -/

section
variable (i : Fin 64) (onSpent : Bool) (a : Entry × Option SpentReason) (s : State)

/-- The slot holds the advanced entry, and it is SPENT exactly where there is a reason. -/
theorem settleOccurrence_slot (h : a.1.spent = none) : (settleOccurrence i onSpent a s).au.slots[i] =
    { state := if a.2 = none then .armed else .spent, entry := { a.1 with spent := a.2 } } := by
  cases ha : a.2 with
  | none =>
    rw [settleOccurrence_au_of_armed ha, armSlot_slots_same]
    simp [← h]
  | some reason =>
    rw [settleOccurrence_au_of_spent ha]
    simp [putSlot]

theorem settleOccurrence_listed (h : i ∉ s.au.dueList) :
    i ∈ (settleOccurrence i onSpent a s).au.dueList ↔ a.2 = none := by
  cases ha : a.2 with
  | none =>
    rw [settleOccurrence_au_of_armed ha, mem_armSlot]
    simp
  | some reason =>
    rw [settleOccurrence_au_of_spent ha]
    simpa [putSlot] using h

/-- The SPENT notice is posted where the slot is SPENT and its entry asks for it (R58, R60). -/
theorem settleOccurrence_posts : (settleOccurrence i onSpent a s).niu = s.niu.took s.present
    (match a.2 with
    | some reason => if onSpent then [.spent i reason] else []
    | none => []) := by
  cases ha : a.2 with
  | none => simp [settleOccurrence, ha]
  | some reason => simp [settleOccurrence, ha, postIf_eq_took]

end

/-! ## A missed occurrence (R55) -/

/-- The entry of a missed occurrence before its advance: its misses counted, with its last occurrence recorded (R55, R59). -/
def Entry.overdue (e : Entry) (s : State) : Entry :=
  { e with
    missed := min (e.missed + missConsumes e (s.tb.count - e.due)) 65535
    last := some (lastRecord e s .missed) }

/-- The part as a missed occurrence has posted the MISSED notice, where the entry asks for one. -/
def State.missPosted (s : State) (i : Fin 64) (e : Entry) : State :=
  postIf e.notify.onMiss (.missed i (min (missConsumes e (s.tb.count - e.due)) 65535)) s

theorem missOccurrence_eq (i : Fin 64) (e : Entry) (s : State) :
    missOccurrence i e s = settleOccurrence i e.notify.onSpent
      (advance (e.overdue s) (missConsumes e (s.tb.count - e.due))
        (e.due + missConsumes e (s.tb.count - e.due) * e.period)) (s.missPosted i e) := rfl

section
variable {s : State} {i : Fin 64} {rest : List (Fin 64)} {e : Entry}

theorem exec_occurrence_misses (h : s.takes i rest) (hticks : s.ticksTaken) (he : s.au.slots[i].entry = e)
    (hlate : e.tolerance < s.tb.count - e.due) :
    exec .occurrence s = .next (missOccurrence i e (s.withDueList rest)) := by
  subst he
  have htaken : takeOccurrence i rest s = missOccurrence i s.au.slots[i].entry (s.withDueList rest) :=
    if_neg (Nat.not_le.2 hlate)
  obtain ⟨hdu, ha, hb⟩ := hticks
  rw [exec_occurrence_takes h, htaken, bringTicks_taken]
  · rwa [missOccurrence_du]
  · intro ch
    rw [State.tx, State.chan, missOccurrence_ser]
    exact match ch with | .a => ha | .b => hb

/-! ## Either occurrence -/

/-- How many occurrences the head's occurrence consumes (R54, R55). -/
def State.consumes (s : State) (e : Entry) : Nat :=
  if s.tb.count - e.due ≤ e.tolerance then 1 else missConsumes e (s.tb.count - e.due)

/-- The entry before its advance: fired or missed counted, and the last occurrence recorded (R54, R55, R59). -/
def State.counted (s : State) (e : Entry) : Entry :=
  { e with
    fired := if s.tb.count - e.due ≤ e.tolerance then min (e.fired + 1) 65535 else e.fired
    missed := if s.tb.count - e.due ≤ e.tolerance then e.missed else min (e.missed + s.consumes e) 65535
    last := some (lastRecord e s
      (if s.tb.count - e.due ≤ e.tolerance then .performed (e.sendRefused s) (e.chainRefused s.au) else .missed)) }

/-- The part that has handed out the occurrence's actions and posted its FIRED or MISSED notice. -/
def State.acted (s : State) (i : Fin 64) (e : Entry) : State :=
  if s.tb.count - e.due ≤ e.tolerance then s.firePosted i e else s.missPosted i e

/-- An occurrence acts and settles its slot, performed or missed. -/
theorem exec_occurrence_settles (h : s.takes i rest) (hticks : s.ticksTaken) (he : s.au.slots[i].entry = e) :
    exec .occurrence s = .next (settleOccurrence i e.notify.onSpent
      (advance ((s.withDueList rest).counted e) (s.consumes e) (e.due + s.consumes e * e.period))
      ((s.withDueList rest).acted i e)) := by
  by_cases hlate : s.tb.count - e.due ≤ e.tolerance
  · have hcounted : (s.withDueList rest).counted e = e.performed (s.withDueList rest) := by
      simp [State.counted, Entry.performed, State.withDueList, hlate]
    have hacted : (s.withDueList rest).acted i e = (s.withDueList rest).firePosted i e := if_pos hlate
    have hconsumes : s.consumes e = 1 := if_pos hlate
    rw [exec_occurrence_performs h hticks he hlate, performOccurrence_eq, hcounted, hacted, hconsumes, Nat.one_mul]
  · have hconsumes : s.consumes e = missConsumes e (s.tb.count - e.due) := if_neg hlate
    have hcounted : (s.withDueList rest).counted e = e.overdue (s.withDueList rest) := by
      simp [State.counted, Entry.overdue, State.withDueList, State.consumes, hlate]
    have hacted : (s.withDueList rest).acted i e = (s.withDueList rest).missPosted i e := if_neg hlate
    rw [exec_occurrence_misses h hticks he (Nat.not_le.1 hlate), missOccurrence_eq, hcounted, hacted, hconsumes]
    rfl

/-- Why the head's entry ends with its occurrence, where it ends. -/
def State.spends (s : State) (e : Entry) : Option SpentReason := e.ends (s.consumes e) (e.due + s.consumes e * e.period)

/-- The part once the occurrence of the head is taken. -/
def State.settledHead (s : State) (i : Fin 64) (rest : List (Fin 64)) (e : Entry) : State :=
  settleOccurrence i e.notify.onSpent
    (advance ((s.withDueList rest).counted e) (s.consumes e) (e.due + s.consumes e * e.period))
    ((s.withDueList rest).acted i e)

theorem settledHead_slot (hspent : e.spent = none) : (s.settledHead i rest e).au.slots[i] =
    { state := if s.spends e = none then .armed else .spent
      entry := {
        (s.withDueList rest).counted e with
        due := if s.spends e = none then e.due + s.consumes e * e.period else e.due
        remaining := if e.period = 0 ∨ e.repeats = 0 then e.remaining else e.remaining - s.consumes e
        spent := s.spends e } } := by
  rw [State.settledHead, advance_said, settleOccurrence_slot]
  · rfl
  · exact hspent

/-- The head of a sound agenda stays off the list while its actions are handed out: its entry does not chain to itself (R53). -/
theorem acted_off (h : SlotsSound s.au) (hlist : s.au.dueList = i :: rest) (he : s.au.slots[i].entry = e) :
    i ∉ ((s.withDueList rest).acted i e).au.dueList := by
  have hbut := h.but_of_head hlist
  have hchain : e.chainTarget ≠ some i := he ▸ (h.slot i).unchained
  unfold State.acted
  split_ifs
  · rw [firePosted_au]
    exact (handedOut_soundBut (s := s.withDueList rest) hbut hchain).off
  · rw [State.missPosted, postIf_au]
    exact hbut.off

theorem SlotsSound.head_unspent (h : SlotsSound s.au) (hlist : s.au.dueList = i :: rest) (he : s.au.slots[i].entry = e) :
    e.spent = none := by
  have harmed : s.au.slots[i].state = .armed := (h.list.listed i).1 (by simp [hlist])
  have hnot : s.au.slots[i].entry.spent.isSome ≠ true := mt (h.slot i).spent.2 (ne_of_eq_of_ne harmed (by decide))
  simpa only [he, Bool.not_eq_true, Option.isSome_eq_false_iff, Option.isNone_iff_eq_none] using hnot

/-- It is on the due list again exactly where its entry has not ended (R58). -/
theorem settledHead_listed (h : SlotsSound s.au) (hlist : s.au.dueList = i :: rest) (he : s.au.slots[i].entry = e) :
    i ∈ (s.settledHead i rest e).au.dueList ↔ s.spends e = none := by
  rw [State.settledHead, settleOccurrence_listed _ _ _ _ (acted_off h hlist he), advance_said]
  exact Iff.rfl

end

/-- Settles O22: the settled slot read field by field, with its place on the due list. -/
theorem occurrenceAdvancesItsEntry : Obligations.OccurrenceAdvancesItsEntry := by
  intro s i rest e performed k hs htakes hticks he hperformed hk
  obtain ⟨hsound, -⟩ := (agendaSound_iff s).1 hs
  have hlist : s.au.dueList = i :: rest := htakes.2.2.1
  obtain rfl : k = s.consumes e := by
    rw [hk, hperformed]
    unfold State.consumes missConsumes
    split_ifs <;> simp_all
  have hslot := settledHead_slot (s := s) (i := i) (rest := rest) (hsound.head_unspent hlist he)
  have hlisted := settledHead_listed hsound hlist he
  refine ⟨s.settledHead i rest e, exec_occurrence_settles htakes hticks he, ?_, ?_, ?_, ?_, fun reason hreason => ?_⟩
  · rw [hslot]
    rfl
  · rw [hslot, hperformed]
    simp [State.counted, State.withDueList]
  · rw [hslot, hperformed]
    simp [State.counted, State.withDueList, State.consumes]
  · rw [hslot]
  · obtain rfl : reason = s.spends e := hreason
    rw [hslot]
    exact ⟨rfl, fun h => ⟨if_pos h, if_pos h, hlisted.2 h⟩, fun h => ⟨if_neg h, if_neg h, mt hlisted.1 h⟩⟩

/-! ## The notices of an occurrence (R60) -/

/-- Notices that are kept or lost do not touch ACTION_REFUSED. -/
theorem Notices.took_actionRefused (n : Notices) (stamp : Stamp) (bodies : List NoticeBody) :
    (n.took stamp bodies).faults.getLsbD FaultFlag.actionRefused.bit = n.faults.getLsbD FaultFlag.actionRefused.bit := by
  simp only [Notices.took]
  split
  · rfl
  · rw [BitVec.getLsbD_or]
    exact Bool.or_false _

/-- With one place free the first of two notices is kept and the second lost (R60, R167). -/
theorem Notices.took_two_of_one_free {n : Notices} (h : n.queue.length = 31) (stamp : Stamp) (b c : NoticeBody) :
    (n.took stamp [b, c]).queue = n.queue ++ [{ body := b, stamp := stamp }] ∧
      (n.took stamp [b, c]).lost = min (n.lost + 1) 255 ∧
      (n.took stamp [b, c]).faults.getLsbD FaultFlag.noticeLost.bit = true := by
  simp [Notices.took, h, FaultFlag.bit]

@[simp] theorem Notices.refusing_queue (n : Notices) (refused : Bool) : (n.refusing refused).queue = n.queue := by
  cases refused <;> rfl

@[simp] theorem Notices.refusing_lost (n : Notices) (refused : Bool) : (n.refusing refused).lost = n.lost := by
  cases refused <;> rfl

/-- Whether the head's occurrence is performed with a request or a chain arm refused (R52, R53). -/
def State.refusesHead (s : State) (e : Entry) : Bool :=
  decide (s.tb.count - e.due ≤ e.tolerance) && ((e.sendRefused s).isSome || e.chainRefused s.au)

/-- The FIRED or the MISSED notice of the head's occurrence, where the entry asks for it (R54, R55). -/
def State.headNotice (s : State) (i : Fin 64) (e : Entry) : List NoticeBody :=
  if s.tb.count - e.due ≤ e.tolerance then
    if e.notify.onFire then [.fired i (min (s.tb.count - e.due) 65535) (e.sendRefused s) (e.chainRefused s.au)] else []
  else if e.notify.onMiss then [.missed i (min (s.consumes e) 65535)] else []

section
variable (s : State) (i : Fin 64) (rest : List (Fin 64)) (e : Entry)

theorem settledHead_frame : s.settledHead i rest e = { (s.withDueList rest).acted i e with
    au := (s.settledHead i rest e).au, niu := (s.settledHead i rest e).niu } := settleOccurrence_frame ..

theorem settledHead_au : (s.settledHead i rest e).au = { ((s.withDueList rest).acted i e).au with
    slots := (s.settledHead i rest e).au.slots, dueList := (s.settledHead i rest e).au.dueList } := settleOccurrence_au ..

theorem acted_niu : (s.acted i e).niu = (s.niu.refusing (s.refusesHead e)).took s.present (s.headNotice i e) := by
  by_cases hlate : s.tb.count - e.due ≤ e.tolerance
  · rw [State.acted, if_pos hlate, State.firePosted, postIf_eq_took, handedOut_niu, handedOut_present]
    simp only [State.refusesHead, State.headNotice, decide_eq_true hlate, if_pos hlate, Bool.true_and]
  · rw [State.acted, if_neg hlate, State.missPosted, postIf_eq_took]
    simp only [State.refusesHead, State.headNotice, decide_eq_false hlate, if_neg hlate, Bool.false_and,
      Notices.refusing_false, State.consumes]

theorem acted_present : (s.acted i e).present = s.present := by
  unfold State.acted
  split
  · exact firePosted_present s i e
  · rw [State.missPosted, postIf_eq_took]

/-- The notices of the head's occurrence: FIRED or MISSED first, then SPENT. -/
theorem settledHead_niu : (s.settledHead i rest e).niu =
    (s.niu.refusing ((s.withDueList rest).refusesHead e)).took s.present ((s.withDueList rest).headNotice i e ++
      match s.spends e with
      | some reason => if e.notify.onSpent then [.spent i reason] else []
      | none => []) := by
  rw [State.settledHead, advance_said, settleOccurrence_posts, acted_niu, acted_present, Notices.took_took]
  rfl

end

/-- Settles O23: the two lists of notices one behind the other, read from the settled slot. -/
theorem occurrenceNoticesInOrder : Obligations.OccurrenceNoticesInOrder := by
  intro s i rest e hs htakes hticks he
  obtain ⟨hsound, -⟩ := (agendaSound_iff s).1 hs
  have hslot := settledHead_slot (s := s) (i := i) (rest := rest) (hsound.head_unspent htakes.2.2.1 he)
  have hniu := settledHead_niu s i rest e
  refine ⟨s.settledHead i rest e, (s.withDueList rest).refusesHead e, exec_occurrence_settles htakes hticks he,
    fun late bodies hlate hbodies => ?_⟩
  subst hlate
  have hsame : bodies = (s.withDueList rest).headNotice i e ++ match s.spends e with
      | some reason => if e.notify.onSpent then [.spent i reason] else []
      | none => [] := by
    rw [hbodies, hslot]
    by_cases hlate : s.tb.count - e.due ≤ e.tolerance
    · simp [State.headNotice, State.counted, State.withDueList, lastRecord, hlate] <;> rfl
    · simp [State.headNotice, State.withDueList, State.consumes, missConsumes, hlate] <;> rfl
  rw [← hsame] at hniu
  refine ⟨hniu, fun hlate => ?_, fun b c hbc hfree => ?_⟩
  · rw [hslot]
    exact ⟨_, rfl, _, _, if_pos hlate⟩
  · subst hbc
    have hone : ((s.niu.refusing ((s.withDueList rest).refusesHead e))).queue.length = 31 := by simpa using hfree
    rw [State.faultSet, hniu]
    simpa using Notices.took_two_of_one_free hone s.present b c

/-- Settles O21: the miss posts its notice and settles its slot, which leaves every other slot and block alone. -/
theorem missedOccurrencePerformsNothing : Obligations.MissedOccurrencePerformsNothing := by
  intro s i rest e hs htakes hticks he hlate
  have hnot := Nat.not_le.2 hlate
  obtain ⟨hsound, -⟩ := (agendaSound_iff s).1 hs
  have hslot := settledHead_slot (s := s) (i := i) (rest := rest) (hsound.head_unspent htakes.2.2.1 he)
  have hacted : (s.withDueList rest).acted i e = (s.withDueList rest).missPosted i e := if_neg hnot
  have hau : ((s.withDueList rest).acted i e).au = { s.au with dueList := rest } := by
    rw [hacted, State.missPosted, postIf_au]
    rfl
  refine ⟨s.settledHead i rest e, exec_occurrence_settles htakes hticks he, ?_, fun j hj => ?_, ?_, ?_, ?_⟩
  · have hslots := settledHead_au s i rest e
    rw [hau] at hslots
    refine (settledHead_frame s i rest e).trans ?_
    rw [hslots, hacted, State.missPosted, postIf_eq_took]
    rfl
  · rw [State.settledHead, settleOccurrence_slots_other _ _ _ _ hj, hau]
  · rw [State.faultSet, settledHead_niu, Notices.took_actionRefused]
    simp [State.refusesHead, State.withDueList, hnot, State.faultSet]
  · rw [hslot]
    exact if_neg hnot
  · rw [hslot]
    simp [State.counted, State.withDueList, hnot, lastRecord]

end Sys2Proof.Machine
end

section
/-! SUPPORT. LINE_WRITE (R69, R70, R75), and the commands on a message with the MESSAGE page (R81 to R83, R196). -/

namespace Sys2Proof.Machine

/-! ## LINE_WRITE -/

section
variable (l : Line) (inSet inClear : Bool) (width : Nat) (source : Source)

theorem Line.act_driven : (l.act inSet inClear width source).driven = l.driven := by
  unfold Line.act
  split <;> rfl

theorem Line.act_neither (h : (inSet || inClear) = false) : l.act inSet inClear width source = l := by
  simp [Line.act, h]

/-- A line of either mask takes its new level, and its return is the level it had (R69, R70). -/
theorem Line.act_either (h : (inSet || inClear) = true) : l.act inSet inClear width source =
    { l with
      level := if inSet && inClear then !l.level else inSet
      pending := if width = 0 then none else some { level := l.level, remaining := width }
      source := source } := if_pos h

end

theorem setDrive_lines (mask : BitVec 8) (d : DispatchUnit) (n : Fin 8) :
    (setDrive mask d).lines[n] = { d.lines[n] with driven := mask.getLsbD n.val } := by
  simp [setDrive]

/-- The lines once LINE_WRITE has set their drive and acted on them (R75). -/
def State.lineWritten (s : State) : Vector Line 8 :=
  (lineAction (stagedSetMask s.du.staging) (stagedClearMask s.du.staging) (stagedPulseWidth s.du.staging) .host
    (setDrive (stagedDriveMask s.du.staging) s.du)).lines

theorem lineWritten_line (s : State) (n : Fin 8) : s.lineWritten[n] =
    { s.du.lines[n] with driven := (stagedByte s.du.staging 4).getLsbD n.val }.act
      ((stagedByte s.du.staging 0).getLsbD n.val) ((stagedByte s.du.staging 1).getLsbD n.val)
      (stagedValue s.du.staging 2 2) .host :=
  (lineAction_lines _ _ _ _ _ n).trans (congrArg (Line.act · _ _ _ _) (setDrive_lines _ s.du n))

theorem exec_lineWrite {s : State} (h : s.portReady) :
    exec .lineWrite s = .next (({ s with du := { s.du with lines := s.lineWritten } }).answered .ok) :=
  congrArg Host.Outcome.next (atOnce_answered h rfl)

/-- Settles O25: each line takes its drive and then the line action of the masks. -/
theorem lineWriteActsOnItsLines : Obligations.LineWriteActsOnItsLines := by
  intro s h
  refine ⟨s.lineWritten, exec_lineWrite h, fun n inSet inClear width hset hclear hwidth => ?_⟩
  subst hset hclear hwidth
  rw [lineWritten_line]
  refine ⟨Line.act_driven .., fun hneither => ?_, fun heither => ?_⟩
  · rw [Line.act_neither _ _ _ _ _ hneither]
    exact ⟨rfl, rfl, rfl⟩
  · rw [Line.act_either _ _ _ _ _ heither]
    exact ⟨rfl, rfl, rfl⟩

/-! ## The commands on a message -/

theorem messageOfByte_below {b : Byte} {m : Fin 32} (h : b.toNat = m.val) : messageOfByte b = some m := by
  rw [messageOfByte, dif_pos (h ▸ m.isLt)]
  exact congrArg some (Fin.ext h)

theorem messageOfByte_from_32 {b : Byte} (h : 32 ≤ b.toNat) : messageOfByte b = none := dif_neg (Nat.not_lt.2 h)

section
variable {s : State} (h : s.portReady)
include h

theorem exec_msgDefine_badArg (ha : 32 ≤ s.biu.arg.toNat) : exec .msgDefine s = .next (s.answered .badArg) := by
  refine congrArg Host.Outcome.next (atOnce_answered h ?_)
  rw [messageOfByte_from_32 ha]

theorem exec_msgUndefine_badArg (ha : 32 ≤ s.biu.arg.toNat) : exec .msgUndefine s = .next (s.answered .badArg) := by
  refine congrArg Host.Outcome.next (atOnce_answered h ?_)
  rw [messageOfByte_from_32 ha]

theorem exec_msgRead_badArg (ha : 32 ≤ s.biu.arg.toNat) : exec .msgRead s = .next (s.answered .badArg) := by
  refine congrArg Host.Outcome.next (atOnce_answered h ?_)
  rw [messageOfByte_from_32 ha]

variable {m : Fin 32} (hm : s.biu.arg.toNat = m.val)
include hm

theorem exec_msgRead_copies : exec .msgRead s =
    .next (({ s with mm := { s.mm with copy := { message := m, descriptor := s.mm.directory[m] } } }).answered .ok) := by
  refine congrArg Host.Outcome.next (atOnce_answered h ?_)
  rw [messageOfByte_below hm]

/-- A message in a queue is LOCKED, and else it becomes undefined (R82). -/
theorem exec_msgUndefine_checked : exec .msgUndefine s =
    .next (if 0 < s.mm.directory[m].busy then s.answered .locked
      else ({ s with mm := { s.mm with
        directory := s.mm.directory.set m
          { s.mm.directory[m] with defined := false, offset := 0, length := 0 } } }).answered .ok) := by
  refine congrArg Host.Outcome.next ?_
  split_ifs with hbusy
  all_goals
    refine atOnce_answered h ?_
    rw [messageOfByte_below hm]
  · exact if_pos hbusy
  · exact if_neg hbusy

/-- The checks of R81 in their order, then the staged range. -/
theorem exec_msgDefine_checked : exec .msgDefine s =
    .next (if stagedLength s.mm.staging = 0 ∨ 256 < stagedLength s.mm.staging then s.answered .badArg
      else if 2047 < stagedOffset s.mm.staging ∨ 2048 < stagedOffset s.mm.staging + stagedLength s.mm.staging then
        s.answered .badArg
      else if 0 < s.mm.directory[m].busy then s.answered .locked
      else ({ s with mm := { s.mm with
        directory := s.mm.directory.set m { s.mm.directory[m] with
          defined := true, offset := stagedOffset s.mm.staging, length := stagedLength s.mm.staging } } }).answered .ok) := by
  refine congrArg Host.Outcome.next ?_
  split_ifs with hlength hrange hbusy
  all_goals
    refine atOnce_answered h ?_
    rw [messageOfByte_below hm]
  · exact if_pos hlength
  · exact (if_neg hlength).trans (if_pos hrange)
  · exact (if_neg hlength).trans ((if_neg hrange).trans (if_pos hbusy))
  · exact (if_neg hlength).trans ((if_neg hrange).trans (if_neg hbusy))

end

/-- The MESSAGE page is the bytes of its fields in order. -/
theorem messagePage_eq_fields (c : DescriptorCopy) :
    messagePage c = (messageFields c).flatMap fun f => leBytes f.2.1 f.2.2 := by
  cases hdefined : c.descriptor.defined <;> simp [messagePage, messageFields, leBytes_one, hdefined, bitByte, bitsValue]

/-- Settles O27: the layout of the page, the bad message number, then one lemma for each command. -/
theorem messageCommandsFollowTheirChecks : Obligations.MessageCommandsFollowTheirChecks := by
  refine ⟨fun s hpage => pageShows_of_adjacent (by simp [messageFields, Adjacent]) ?_, fun s h => ⟨fun ha c hc => ?_,
    fun m offset length hm hoffset hlength => ⟨exec_msgRead_copies h hm, fun d hd => ?_⟩⟩⟩
  · rw [← messagePage_eq_fields]
    simp [State.pageBytes, hpage]
  · simp only [List.mem_cons, List.not_mem_nil, or_false] at hc
    obtain rfl | rfl | rfl := hc
    · exact exec_msgDefine_badArg h ha
    · exact exec_msgUndefine_badArg h ha
    · exact exec_msgRead_badArg h ha
  · subst hd hoffset hlength
    exact ⟨exec_msgUndefine_checked h hm, exec_msgDefine_checked h hm⟩

end Sys2Proof.Machine
end

section
/-! SUPPORT. The commands on a serial channel: its settings (R95, R126), the requests that join its transmit queue (R101, R102), and
the aborts (R107, R109). -/

namespace Sys2Proof.Machine

/-! ## The channel that ARG names (R95) -/

section
variable {s t : State} {f : Channel → State → State × ResultCode} (h : s.portReady)
include h

theorem channelCommand_badArg (ha : 2 ≤ s.biu.arg.toNat) :
    atOnce s (fun s => channelCommand s f) = s.answered .badArg :=
  atOnce_answered h (by rw [channelCommand, channelOfArg_from_2 (by exact ha)])

theorem channelCommand_answered {ch : Channel} {r : ResultCode} (ha : s.biu.arg = channelCode ch)
    (hf : f ch { s with biu := { s.biu with cmdDone := false } } = ({ t with biu := { t.biu with cmdDone := false } }, r)) :
    atOnce s (fun s => channelCommand s f) = t.answered r := by
  have hch : channelOfArg s.biu.arg = some ch := by rw [ha, channelOfArg_channelCode]
  refine atOnce_answered h ?_
  rw [channelCommand, hch]
  exact hf

/-- The same for an effect that is known as a whole: the accepted state's CMD_DONE does not outlive the event. -/
theorem channelCommand_leaves {ch : Channel} {r : ResultCode} (ha : s.biu.arg = channelCode ch)
    (hf : f ch { s with biu := { s.biu with cmdDone := false } } = (t, r)) (hb : t.biu = { s.biu with cmdDone := false }) :
    atOnce s (fun s => channelCommand s f) = ({ t with biu := s.biu }).answered r := by
  refine channelCommand_answered h ha (hf.trans ?_)
  rw [← hb]

end

/-! ## Staged settings -/

theorem stagedValue_one {n : Nat} {st : Vector Byte n} {i : Nat} : stagedValue st i 1 = (stagedByte st i).toNat := by
  unfold stagedValue stagedByte
  cases hrest : st.toList.drop i with
  | nil =>
    have hout : st.toList.length ≤ i := List.drop_eq_nil_iff.1 hrest
    simp [leValue, List.getD_eq_getElem?_getD, List.getElem?_eq_none hout]
  | cons b rest =>
    have hget : st.toList[i]? = some b := by
      rw [← Nat.add_zero i, ← List.getElem?_drop, hrest]
      rfl
    simp [leValue, List.getD_eq_getElem?_getD, hget]

section
variable {b : Byte}

theorem dataBitsOfByte_said : if b.toNat = 7 ∨ b.toNat = 8 then
    ∃ d, dataBitsOfByte b = some d ∧ (d = .seven ↔ b.toNat = 7) else dataBitsOfByte b = none := by
  have h7 : b = 7 ↔ b.toNat = 7 := BitVec.toNat_eq
  have h8 : b = 8 ↔ b.toNat = 8 := BitVec.toNat_eq
  unfold dataBitsOfByte
  simp only [h7, h8]
  by_cases h : b.toNat = 7
  · simp [h]
  · by_cases h' : b.toNat = 8 <;> simp [h, h']

theorem stopBitsOfByte_said : if b.toNat = 1 ∨ b.toNat = 2 then
    ∃ t, stopBitsOfByte b = some t ∧ (t = .two ↔ b.toNat = 2) else stopBitsOfByte b = none := by
  have h1 : b = 1 ↔ b.toNat = 1 := BitVec.toNat_eq
  have h2 : b = 2 ↔ b.toNat = 2 := BitVec.toNat_eq
  unfold stopBitsOfByte
  simp only [h1, h2]
  by_cases h : b.toNat = 1
  · simp [h]
  · by_cases h' : b.toNat = 2 <;> simp [h, h']

theorem parityOfByte_said : if 3 ≤ b.toNat then parityOfByte b = none else
    ∃ p, parityOfByte b = some p ∧ (p = .even ↔ b.toNat = 1) ∧ (p = .odd ↔ b.toNat = 2) := by
  have h0 : b = 0 ↔ b.toNat = 0 := BitVec.toNat_eq
  have h1 : b = 1 ↔ b.toNat = 1 := BitVec.toNat_eq
  have h2 : b = 2 ↔ b.toNat = 2 := BitVec.toNat_eq
  unfold parityOfByte
  simp only [h0, h1, h2]
  by_cases h : 3 ≤ b.toNat
  · rw [if_pos h, if_neg (by omega), if_neg (by omega), if_neg (by omega)]
  · rw [if_neg h]
    obtain h | h | h : b.toNat = 0 ∨ b.toNat = 1 ∨ b.toNat = 2 := by omega
    all_goals simp [h]

theorem yesNoOfByte_said : yesNoOfByte b = if 2 ≤ b.toNat then none else some (decide (b.toNat = 1)) := by
  have h0 : b = 0 ↔ b.toNat = 0 := BitVec.toNat_eq
  have h1 : b = 1 ↔ b.toNat = 1 := BitVec.toNat_eq
  unfold yesNoOfByte
  simp only [h0, h1]
  by_cases h : 2 ≤ b.toNat
  · rw [if_pos h, if_neg (by omega), if_neg (by omega)]
  · rw [if_neg h]
    obtain h | h : b.toNat = 0 ∨ b.toNat = 1 := by omega
    all_goals simp [h]

end

section
variable {st : Vector Byte 15}

/-- A staged configuration out of range (R95). -/
def configOutside (st : Vector Byte 15) : Prop :=
  stagedValue st 0 2 = 0 ∨ ¬ ((stagedByte st 2).toNat = 7 ∨ (stagedByte st 2).toNat = 8) ∨ 3 ≤ (stagedByte st 3).toNat ∨
    ¬ ((stagedByte st 4).toNat = 1 ∨ (stagedByte st 4).toNat = 2)

theorem stagedConfig_outside (h : configOutside st) : stagedConfig st = none := by
  unfold stagedConfig
  split
  · rfl
  obtain hdivisor | hbits | hparity | hstops := h
  · contradiction
  · simp [(if_neg hbits).mp dataBitsOfByte_said]
  · have hnone := parityOfByte_said (b := stagedByte st 3)
    rw [if_pos hparity] at hnone
    simp [hnone]
  · simp [(if_neg hstops).mp stopBitsOfByte_said]

/-- What a staged configuration within range is. -/
theorem stagedConfig_within (h : ¬ configOutside st) : ∃ c, stagedConfig st = some c ∧ c.divisor = stagedValue st 0 2 ∧
    (c.dataBits = .seven ↔ (stagedByte st 2).toNat = 7) ∧ (c.parity = .even ↔ (stagedByte st 3).toNat = 1) ∧
    (c.parity = .odd ↔ (stagedByte st 3).toNat = 2) ∧ (c.stopBits = .two ↔ (stagedByte st 4).toNat = 2) ∧
    (c.txEnable = true ↔ (stagedByte st 5).toNat % 2 = 1) ∧ (c.rxEnable = true ↔ (stagedByte st 5).toNat / 2 % 2 = 1) := by
  obtain ⟨hdivisor, h⟩ := not_or.1 h
  obtain ⟨hbits, h⟩ := not_or.1 h
  obtain ⟨hparity, hstops⟩ := not_or.1 h
  obtain ⟨d, hd, hseven⟩ := (if_pos (not_not.1 hbits)).mp dataBitsOfByte_said
  obtain ⟨t, ht, htwo⟩ := (if_pos (not_not.1 hstops)).mp stopBitsOfByte_said
  obtain ⟨p, hp, heven, hodd⟩ := (if_neg hparity).mp parityOfByte_said
  refine ⟨_, by rw [stagedConfig, if_neg hdivisor, hd, hp, ht], rfl, hseven, heven, hodd, htwo, ?_, ?_⟩
  · simp [BitVec.getLsbD]
  · simp [BitVec.getLsbD, Nat.testBit_eq_decide_div_mod_eq]

end

/-! ## CH_CONFIG (R95) -/

/-- The channel as CH_CONFIG leaves it: a receiver that is on watches its input afresh (R115, log 19). -/
def State.configured (s : State) (ch : Channel) (config : ChannelConfig) : SerialChannel :=
  { s.chan ch with
    config := config
    rx := if config.rxEnable then (s.rx ch).afresh (inputKnown s ch) else s.rx ch }

section
variable {s : State} (h : s.portReady) {ch : Channel} (ha : s.biu.arg = channelCode ch)
include h ha

theorem exec_chConfig_refused {code : ResultCode}
    (hcode : configOutside s.ser.staging ∧ code = .badArg ∨ ¬ configOutside s.ser.staging ∧
      ((s.tx ch).queue ≠ [] ∨ (s.rx ch).state ≠ .idle) ∧ code = .badState) :
    exec .chConfig s = .next (s.answered code) := by
  refine congrArg Host.Outcome.next (channelCommand_answered h ha ?_)
  obtain ⟨hout, rfl⟩ | ⟨hin, hbusy, rfl⟩ := hcode
  · simp only [stagedConfig_outside hout]
  · obtain ⟨c, hc, -⟩ := stagedConfig_within hin
    simp only [hc]
    by_cases hqueue : (s.tx ch).queue = []
    · exact (if_neg (show ¬ (!(s.tx ch).queue.isEmpty) = true by simpa using hqueue)).trans (if_pos (hbusy.resolve_left (not_not.2 hqueue)))
    · exact if_pos (show (!(s.tx ch).queue.isEmpty) = true by simpa using hqueue)

theorem exec_chConfig_configures {c : ChannelConfig} (hc : stagedConfig s.ser.staging = some c)
    (hqueue : (s.tx ch).queue = []) (hidle : (s.rx ch).state = .idle) :
    exec .chConfig s =
      .next (({ s with ser := { s.ser with chans := s.ser.chans.set ch (s.configured ch c) } }).answered .ok) := by
  refine congrArg Host.Outcome.next (channelCommand_answered h ha ?_)
  simp only [hc]
  exact (if_neg (show ¬ (!(s.tx ch).queue.isEmpty) = true by simpa using hqueue)).trans (if_neg (not_not.2 hidle))

/-! ## CH_FRAME_CONFIG (R126) -/

end

/-- Staged frame rules out of range (R126). -/
def rulesOutside (st : Vector Byte 15) : Prop :=
  (stagedByte st 9).toNat = 0 ∨ 15 < (stagedByte st 9).toNat ∨ 2 ≤ (stagedByte st 10).toNat ∨
    stagedValue st 12 2 = 0 ∨ 256 < stagedValue st 12 2

theorem stagedFrameRules_said (st : Vector Byte 15) : (rulesOutside st → stagedFrameRules st = none) ∧
    (¬ rulesOutside st → ∃ rules, stagedFrameRules st = some rules ∧ rules.gap = (stagedByte st 9).toNat ∧
      rules.maxLength = stagedValue st 12 2 ∧
      rules.terminator.map BitVec.toNat =
        (if (stagedByte st 10).toNat = 1 then some (stagedByte st 11).toNat else none)) := by
  simp only [stagedFrameRules, stagedValue_one, yesNoOfByte_said, rulesOutside]
  by_cases hgap : (stagedByte st 9).toNat = 0 ∨ 15 < (stagedByte st 9).toNat
  · rw [if_pos hgap]
    exact ⟨fun _ => rfl, fun hin => absurd (hgap.imp_right .inl) hin⟩
  rw [if_neg hgap]
  by_cases hpresent : 2 ≤ (stagedByte st 10).toNat
  · rw [if_pos hpresent]
    exact ⟨fun _ => rfl, fun hin => absurd (.inr (.inr (.inl hpresent))) hin⟩
  rw [if_neg hpresent]
  by_cases hlength : stagedValue st 12 2 = 0 ∨ 256 < stagedValue st 12 2
  · simp only [if_pos hlength]
    exact ⟨fun _ => trivial, fun hin => absurd (.inr (.inr (.inr hlength))) hin⟩
  simp only [if_neg hlength]
  refine ⟨fun hout => ?_, fun _ => ⟨_, rfl, rfl, rfl, ?_⟩⟩
  · tauto
  · by_cases hone : (stagedByte st 10).toNat = 1 <;> simp [hone]

section
variable {s : State} (h : s.portReady) {ch : Channel} (ha : s.biu.arg = channelCode ch)
include h ha

theorem exec_chFrameConfig_refused {code : ResultCode}
    (hcode : stagedFrameRules s.ser.staging = none ∧ code = .badArg ∨
      (∃ rules, stagedFrameRules s.ser.staging = some rules) ∧ (s.rx ch).state ≠ .idle ∧ code = .badState) :
    exec .chFrameConfig s = .next (s.answered code) := by
  refine congrArg Host.Outcome.next (channelCommand_answered h ha ?_)
  obtain ⟨hout, rfl⟩ | ⟨⟨rules, hin⟩, hbusy, rfl⟩ := hcode
  · simp only [hout]
  · simp only [hin]
    exact if_pos hbusy

theorem exec_chFrameConfig_sets {rules : FrameRules} (hrules : stagedFrameRules s.ser.staging = some rules)
    (hidle : (s.rx ch).state = .idle) :
    exec .chFrameConfig s = .next ((s.withRx ch { s.rx ch with rules := rules }).answered .ok) := by
  refine congrArg Host.Outcome.next (channelCommand_answered h ha ?_)
  simp only [hrules]
  exact if_neg (not_not.2 hidle)

end

/-- A refused command leaves its channel as it was. -/
theorem channel_kept {s : State} {ch : Channel} {c : Instr} {code : ResultCode} {settings : SerialChannel → Prop}
    (hexec : exec c s = .next (s.answered code)) (hno : code ≠ .ok) : ∃ x : SerialChannel,
      exec c s = .next (({ s with ser := { s.ser with chans := s.ser.chans.set ch x } }).answered code) ∧
      (code ≠ .ok → x = s.chan ch) ∧ (code = .ok → settings x) :=
  ⟨s.chan ch, by simpa [State.chan] using hexec, fun _ => rfl, fun hok => absurd hok hno⟩

/-- Refused rules leave the receiver's own. -/
theorem rules_kept {s : State} {ch : Channel} {code : ResultCode} {settings : FrameRules → Prop}
    (hexec : exec .chFrameConfig s = .next (s.answered code)) (hno : code ≠ .ok) : ∃ rules : FrameRules,
      exec .chFrameConfig s = .next ((s.withRx ch { s.rx ch with rules := rules }).answered code) ∧
      (code ≠ .ok → rules = (s.rx ch).rules) ∧ (code = .ok → settings rules) :=
  ⟨(s.rx ch).rules, by rw [hexec]; exact congrArg (fun t => Host.Outcome.next (t.answered code)) (withRx_self s ch).symm, fun _ => rfl, fun hok => absurd hok hno⟩

/-- Settles O33: for each command the bad channel, the refusals in their order, and the settings. -/
theorem channelSettingsFollowTheirChecks : Obligations.ChannelSettingsFollowTheirChecks := by
  intro s h
  refine ⟨fun ha => ⟨congrArg Host.Outcome.next (channelCommand_badArg h ha),
    congrArg Host.Outcome.next (channelCommand_badArg h ha)⟩, ?_⟩
  intro ch ha divisor bits parity stops enables hdivisor hbits hparity hstops henables gap present terminator longest hgap
    hpresent hterminator hlongest
  subst hdivisor hbits hparity hstops henables hgap hpresent hterminator hlongest
  refine ⟨fun code hcode => ?_, fun code hcode => ?_⟩
  · by_cases hout : configOutside s.ser.staging
    · obtain rfl := hcode.trans (if_pos hout)
      exact channel_kept (exec_chConfig_refused h ha (.inl ⟨hout, rfl⟩)) (by simp)
    · by_cases hbusy : (s.tx ch).queue ≠ [] ∨ (s.rx ch).state ≠ .idle
      · obtain rfl := hcode.trans ((if_neg hout).trans (if_pos hbusy))
        exact channel_kept (exec_chConfig_refused h ha (.inr ⟨hout, hbusy, rfl⟩)) (by simp)
      · obtain rfl := hcode.trans ((if_neg hout).trans (if_neg hbusy))
        obtain ⟨hqueue, hidle⟩ := not_or.1 hbusy
        obtain ⟨c, hc, hdivisor, hseven, heven, hodd, htwo, htx, hrx⟩ := stagedConfig_within hout
        exact ⟨s.configured ch c, exec_chConfig_configures h ha hc (not_not.1 hqueue) (not_not.1 hidle),
          fun hno => absurd rfl hno, fun _ => ⟨rfl, hdivisor, hseven, heven, hodd, htwo, htx, hrx, rfl⟩⟩
  · obtain ⟨hnone, hsome⟩ := stagedFrameRules_said s.ser.staging
    by_cases hout : rulesOutside s.ser.staging
    · obtain rfl := hcode.trans (if_pos hout)
      exact rules_kept (exec_chFrameConfig_refused h ha (.inl ⟨hnone hout, rfl⟩)) (by simp)
    · obtain ⟨rules, hrules, hsettings⟩ := hsome hout
      by_cases hbusy : (s.rx ch).state ≠ .idle
      · obtain rfl := hcode.trans ((if_neg hout).trans (if_pos hbusy))
        exact rules_kept (exec_chFrameConfig_refused h ha (.inr ⟨⟨rules, hrules⟩, hbusy, rfl⟩)) (by simp)
      · obtain rfl := hcode.trans ((if_neg hout).trans (if_neg hbusy))
        exact ⟨rules, exec_chFrameConfig_sets h ha hrules (not_not.1 hbusy), fun hno => absurd rfl hno, fun _ => hsettings⟩

end Sys2Proof.Machine
end

section
/-! SUPPORT. The requests that join a transmit queue (R101, R102), and those that leave it at a transmit reset (R107, R109). -/

namespace Sys2Proof.Machine

/-! ## Refusals (R100 to R102) -/

/-- The result of a SEND or BREAK command that is refused. -/
def RefuseReason.result : RefuseReason → ResultCode
  | .queueFull => .full
  | .noMessage | .channelOff => .badState

theorem RefuseReason.result_ne_ok (r : RefuseReason) : r.result ≠ .ok := by cases r <;> decide

theorem queueRefusal_said (s : State) (ch : Channel) : queueRefusal s ch =
    if (s.chan ch).config.txEnable = false then some .channelOff
    else if 8 ≤ (s.tx ch).queue.length then some .queueFull else none := by
  unfold queueRefusal
  cases (s.chan ch).config.txEnable <;> rfl

theorem sendRefusal_result (s : State) (ch : Channel) (m : Fin 32) :
    (if s.mm.directory[m].defined = false then ResultCode.badState
      else if (s.chan ch).config.txEnable = false then .badState
      else if 8 ≤ (s.tx ch).queue.length then .full
      else .ok) = (sendRefusal s ch m).elim .ok RefuseReason.result := by
  rw [sendRefusal, queueRefusal_said]
  cases s.mm.directory[m].defined with
  | false => rfl
  | true =>
    simp only [Bool.true_eq_false, if_false, if_true]
    split_ifs <;> rfl

theorem queueRefusal_result (s : State) (ch : Channel) :
    (if (s.chan ch).config.txEnable = false then ResultCode.badState
      else if 8 ≤ (s.tx ch).queue.length then .full
      else .ok) = (queueRefusal s ch).elim .ok RefuseReason.result := by
  rw [queueRefusal_said]
  split_ifs <;> rfl

/-! ## CH_SEND and CH_BREAK -/

/-- What joins a queue does not look at the port. -/
theorem joinQueue_accepted (ch : Channel) (r : Request) (s : State) :
    joinQueue ch r { s with biu := { s.biu with cmdDone := false } } =
      { joinQueue ch r s with biu := { (joinQueue ch r s).biu with cmdDone := false } } := by
  have hser : (joinQueue ch r { s with biu := { s.biu with cmdDone := false } }).ser = (joinQueue ch r s).ser :=
    joinQueue_ser_congr _ _ rfl rfl
  refine (joinQueue_frame ch r _).trans ?_
  rw [hser, joinQueue_frame ch r s]

section
variable {s : State} (h : s.portReady) {ch : Channel} (ha : s.biu.arg = channelCode ch)
include h ha

theorem exec_chSend_noNumber (hm : 32 ≤ (stagedByte s.ser.staging 6).toNat) :
    exec .chSend s = .next (s.answered .badArg) := by
  refine congrArg Host.Outcome.next (channelCommand_answered h ha ?_)
  have hnumber : messageOfByte (stagedSendMessage s.ser.staging) = none := messageOfByte_from_32 hm
  simp only [hnumber]

theorem exec_chSend_refused {m : Fin 32} (hm : (stagedByte s.ser.staging 6).toNat = m.val) {reason : RefuseReason}
    (hr : sendRefusal s ch m = some reason) : exec .chSend s = .next (s.answered reason.result) := by
  refine congrArg Host.Outcome.next (channelCommand_answered h ha ?_)
  have hr : sendRefusal { s with biu := { s.biu with cmdDone := false } } ch m = some reason := hr
  have hnumber : messageOfByte (stagedSendMessage s.ser.staging) = some m := messageOfByte_below hm
  cases reason <;> simp only [hnumber, hr] <;> rfl

/-- An accepted SEND joins its queue, and its message's busy count rises (R85, R100). -/
theorem exec_chSend_joins {m : Fin 32} (hm : (stagedByte s.ser.staging 6).toNat = m.val) (hr : sendRefusal s ch m = none) :
    exec .chSend s = .next (({ joinQueue ch (.send m .host ((stagedByte s.ser.staging 7).getLsbD 0)) s with
      mm := claimMessage m s.mm }).answered .ok) := by
  refine congrArg Host.Outcome.next (channelCommand_answered h ha ?_)
  have hr : sendRefusal { s with biu := { s.biu with cmdDone := false } } ch m = none := hr
  have hnumber : messageOfByte (stagedSendMessage s.ser.staging) = some m := messageOfByte_below hm
  simp only [hnumber, hr, joinSend, joinQueue_accepted]
  rfl

theorem exec_chBreak_noLength (hl : (stagedByte s.ser.staging 8).toNat = 0) :
    exec .chBreak s = .next (s.answered .badArg) :=
  congrArg Host.Outcome.next (channelCommand_answered h ha (if_pos (stagedValue_one.trans hl)))

theorem exec_chBreak_refused (hl : (stagedByte s.ser.staging 8).toNat ≠ 0) {reason : RefuseReason}
    (hr : queueRefusal s ch = some reason) : exec .chBreak s = .next (s.answered reason.result) := by
  refine congrArg Host.Outcome.next (channelCommand_answered h ha ((if_neg (ne_of_eq_of_ne stagedValue_one hl)).trans ?_))
  have hr : queueRefusal { s with biu := { s.biu with cmdDone := false } } ch = some reason := hr
  cases reason <;> simp only [hr] <;> rfl

theorem exec_chBreak_joins (hl : (stagedByte s.ser.staging 8).toNat ≠ 0) (hr : queueRefusal s ch = none) :
    exec .chBreak s = .next ((joinQueue ch (.brk (stagedByte s.ser.staging 8).toNat) s).answered .ok) := by
  refine congrArg Host.Outcome.next (channelCommand_answered h ha ((if_neg (ne_of_eq_of_ne stagedValue_one hl)).trans ?_))
  have hr : queueRefusal { s with biu := { s.biu with cmdDone := false } } ch = none := hr
  simp only [hr, joinBreak, joinQueue_accepted, stagedBreakLength, stagedValue_one]

end

/-- Settles O34: for each command the arguments, the refusals, and the request that joins the tail. -/
theorem sendsAndBreaksJoinTheQueue : Obligations.SendsAndBreaksJoinTheQueue := by
  intro s h
  refine ⟨fun ha => ⟨congrArg Host.Outcome.next (channelCommand_badArg h ha),
    congrArg Host.Outcome.next (channelCommand_badArg h ha)⟩, ?_⟩
  intro ch ha message length notify hmessage hnotify hlength
  subst hmessage hnotify hlength
  have hjoined : ∀ r : Request, ((s.tx ch).joinedBy s.mm [r]).queue = (s.tx ch).queue ++ [r] ∧
      ((s.tx ch).queue = [] → ((s.tx ch).joinedBy s.mm [r]).hasBegun s.mm false) ∧
      ((s.tx ch).queue ≠ [] → (s.tx ch).joinedBy s.mm [r] =
        { s.tx ch with queue := ((s.tx ch).joinedBy s.mm [r]).queue }) :=
    fun r => ⟨joinedBy_queue _ _ _, joinedBy_begins _ _ _, joinedBy_waits _ _ _⟩
  refine ⟨exec_chSend_noNumber h ha, fun m code hm hcode => ?_, fun code hcode => ?_⟩
  · rw [sendRefusal_result] at hcode
    cases hr : sendRefusal s ch m with
    | some reason =>
      obtain rfl : code = reason.result := by rw [hcode, hr]; rfl
      exact ⟨fun _ => exec_chSend_refused h ha hm.symm hr, fun hok => absurd hok reason.result_ne_ok⟩
    | none =>
      obtain rfl : code = .ok := by rw [hcode, hr]; rfl
      refine ⟨fun hno => absurd rfl hno, fun _ => ⟨_, ?_, hjoined _⟩⟩
      rw [exec_chSend_joins h ha hm.symm hr, joinQueue_eq]
      rfl
  · by_cases hl : (stagedByte s.ser.staging 8).toNat = 0
    · obtain rfl := hcode.trans (if_pos hl)
      exact ⟨fun _ => exec_chBreak_noLength h ha hl, fun hok => absurd hok (by decide)⟩
    have hcode := hcode.trans ((if_neg hl).trans (queueRefusal_result s ch))
    cases hr : queueRefusal s ch with
    | some reason =>
      obtain rfl : code = reason.result := by rw [hcode, hr]; rfl
      exact ⟨fun _ => exec_chBreak_refused h ha hl hr, fun hok => absurd hok reason.result_ne_ok⟩
    | none =>
      obtain rfl : code = .ok := by rw [hcode, hr]; rfl
      refine ⟨fun hno => absurd rfl hno, fun _ => ⟨_, ?_, hjoined _⟩⟩
      rw [exec_chBreak_joins h ha hl hr, joinQueue_eq]

/-! ## CH_ABORT and CH_TX_RESET (R107, R109) -/

/-- The state of a transmitter whose head stops at its next boundary. -/
def Transmitter.stopped (t : Transmitter) : TxState := if t.state = .sending ∨ t.state = .breaking then .stopping else t.state

theorem abort_eq (t : Transmitter) : t.abort = { t with state := t.stopped } := by
  obtain ⟨state, queue, out, byteIndex, breakRemaining, elapsed, tickOwed⟩ := t
  cases state <;> rfl

/-- The notice of a waiting SEND that leaves its queue at a transmit reset, where it asks for one (R109). -/
def Request.abortNotice (ch : Channel) : Request → Option NoticeBody
  | .send m source true => some (.txAborted ch m source 0)
  | _ => none

theorem requestLeaves_abort_niu (ch : Channel) (r : Request) (s : State) :
    (requestLeaves r (fun m source => .txAborted ch m source 0) s).niu =
      s.niu.took s.present (r.abortNotice ch).toList := by
  match r with
  | .send m source notify => cases notify <;> simp [requestLeaves, postIf_eq_took, Request.abortNotice]
  | .brk n => simp [requestLeaves, Request.abortNotice]

/-- The notices of requests that leave are taken in queue order. -/
theorem requestsLeave_abort_niu (ch : Channel) (rs : List Request) (s : State) :
    (rs.foldl (fun s r => requestLeaves r (fun m source => .txAborted ch m source 0) s) s).niu =
      s.niu.took s.present (rs.filterMap (Request.abortNotice ch)) := by
  induction rs generalizing s with
  | nil => simp
  | cons r rs ih =>
    have hpresent : (requestLeaves r (fun m source => .txAborted ch m source 0) s).present = s.present := by
      simp [State.present]
    rw [List.foldl_cons, ih, requestLeaves_abort_niu, hpresent, Notices.took_took]
    cases hnotice : r.abortNotice ch <;> simp [hnotice]

theorem resetTransmitter_niu (ch : Channel) (s : State) : (resetTransmitter ch s).niu =
    s.niu.took s.present (((s.tx ch).queue.drop 1).filterMap (Request.abortNotice ch)) := requestsLeave_abort_niu ch _ _

theorem resetTransmitter_empty {s : State} {ch : Channel} (hqueue : (s.tx ch).queue = []) :
    resetTransmitter ch s = s.withTx ch { s.tx ch with state := (s.tx ch).stopped } := by
  rw [resetTransmitter]
  simp only [hqueue, List.drop_nil, List.foldl_nil]
  rw [abort_eq]
  rfl

section
variable {s : State} {ch : Channel} {head : Request} {waiting : List Request} (hqueue : (s.tx ch).queue = head :: waiting)
include hqueue

theorem resetTransmitter_cut : (resetTransmitter ch s).ser =
    (s.withTx ch { s.tx ch with state := (s.tx ch).stopped, queue := [head] }).ser := by
  rw [resetTransmitter_ser, abort_eq, hqueue]
  rfl

theorem resetTransmitter_tx : (resetTransmitter ch s).tx ch =
    { s.tx ch with state := (s.tx ch).stopped, queue := [head] } := by
  rw [tx_of_ser_eq (resetTransmitter_cut hqueue), withTx_tx]

/-- A transmit reset changes its transmitter, the busy counts and the notices alone (R109). -/
theorem resetTransmitter_changes : resetTransmitter ch s =
    { s.withTx ch ((resetTransmitter ch s).tx ch) with
      mm := { s.mm with directory := (resetTransmitter ch s).mm.directory }, niu := (resetTransmitter ch s).niu } := by
  have hmm : (resetTransmitter ch s).mm = { s.mm with directory := (resetTransmitter ch s).mm.directory } := by
    rw [resetTransmitter_mm]
    exact (releaseRequests_sameButBusy _ _).1
  refine (resetTransmitter_frame ch s).trans ?_
  rw [resetTransmitter_tx hqueue, resetTransmitter_cut hqueue, ← hmm]
  rfl

theorem resetTransmitter_busy (m : Fin 32) : (resetTransmitter ch s).mm.directory[m] =
    { s.mm.directory[m] with busy := s.mm.directory[m].busy - sendsNaming m waiting } := by
  rw [resetTransmitter_mm, hqueue, ← releaseRequests_busy]
  exact (releaseRequests_sameButBusy _ _).2 m

end

/-- Settles O35: the head's abort, and the requests behind it that leave one after the other. -/
theorem abortsStopTheHeadAndEmptyTheQueue : Obligations.AbortsStopTheHeadAndEmptyTheQueue := by
  intro s h
  refine ⟨fun ha => ⟨congrArg Host.Outcome.next (channelCommand_badArg h ha),
    congrArg Host.Outcome.next (channelCommand_badArg h ha)⟩, fun ch ha stopped hstopped => ?_⟩
  obtain rfl : stopped = (s.tx ch).stopped := hstopped
  refine ⟨?_, fun hqueue => ?_, fun head waiting hqueue => ?_⟩
  · rw [← abort_eq]
    exact congrArg Host.Outcome.next (channelCommand_answered h ha rfl)
  · refine congrArg Host.Outcome.next (channelCommand_answered h ha ?_)
    exact congrArg (·, ResultCode.ok) (resetTransmitter_empty (by exact hqueue))
  · have hqueue : (({ s with biu := { s.biu with cmdDone := false } } : State).tx ch).queue = head :: waiting := hqueue
    have hniu := resetTransmitter_niu ch { s with biu := { s.biu with cmdDone := false } }
    rw [hqueue] at hniu
    exact ⟨{ resetTransmitter ch { s with biu := { s.biu with cmdDone := false } } with biu := s.biu },
      congrArg Host.Outcome.next (channelCommand_leaves h ha rfl (resetTransmitter_biu ch _)),
      resetTransmitter_tx hqueue, congrArg (fun t : State => { t with biu := s.biu }) (resetTransmitter_changes hqueue),
      resetTransmitter_busy hqueue, hniu⟩

end Sys2Proof.Machine
end

section
/-! SUPPORT. The capture queue as the host takes it (R143 to R146), and the bytes of a record in its ring (R137, R145, R154). -/

namespace Sys2Proof.Machine

/-! ## The CAPTURE page (R144, R196) -/

/-- The locations that the table of the page leaves out, which read 0: all of them with no record in the window. -/
def captureBlank : Option CaptureRecord → List (Nat × Nat × Nat)
  | none => [(0x10, 16, 0)]
  | some r =>
    match r.source with
    | .frame _ => [(0x1E, 1, 0)]
    | .edge _ _ => []

/-- The fields of the read window in the order of their locations, those of the value 0 included. -/
def captureFieldsInOrder (window : Option CaptureRecord) : List (Nat × Nat × Nat) :=
  (captureFields window ++ captureBlank window).insertionSort fun f g => f.1 ≤ g.1

theorem captureBlank_value (window : Option CaptureRecord) : ∀ f ∈ captureBlank window, f.2.2 = 0 := by
  rcases window with _ | ⟨source, _⟩
  · simp [captureBlank]
  · cases source <;> simp [captureBlank]

theorem captureFieldsInOrder_adjacent (window : Option CaptureRecord) : Adjacent 16 (captureFieldsInOrder window) := by
  rcases window with _ | ⟨source, _⟩
  · simp [captureFieldsInOrder, captureFields, captureBlank, Adjacent]
  · cases source <;> simp [captureFieldsInOrder, captureFields, captureBlank, Adjacent]

/-- The CAPTURE page is the bytes of its fields: presence and source, the stamp, the length, the flags and the rules. -/
theorem capturePage_eq_fields (window : Option CaptureRecord) :
    capturePage window = (captureFieldsInOrder window).flatMap fun f => leBytes f.2.1 f.2.2 := by
  rcases window with _ | ⟨source, stamp, length, flags, endCause, matched, place⟩
  · rfl
  · simp only [capturePage, optionalCode_eq EndCause.code, flagsByte_eq]
    cases source with
    | frame ch =>
      cases ch <;>
        simp [captureFieldsInOrder, captureFields, captureBlank, CaptureSource.codes, leBytes, channelCode, allRules]
    | edge n dir =>
      cases dir <;> simp [captureFieldsInOrder, captureFields, captureBlank, CaptureSource.codes, leBytes, EdgeDir.bit,
        allRules]

theorem capturePage_shows {s : State} (h : s.biu.page = 5) : s.pageShows (captureFields s.cu.window) := by
  refine pageShows_of_perm (captureBlank_value _) (List.perm_insertionSort _ _) (captureFieldsInOrder_adjacent _) ?_
  rw [← captureFieldsInOrder, ← capturePage_eq_fields]
  simp [State.pageBytes, h]

/-! ## CAP_POP and CAP_FLUSH (R143, R146) -/

/-- The bytes of the record read before are freed from the oldest end of each ring. -/
theorem discardWindow_ring {cu : Capture} {ch : Channel} (hstart : (cu.rings.get ch).start < Config.ringSize) :
    (discardWindow cu).rings.get ch = (cu.rings.get ch).freeOldest (heldBy ch cu.window.toList) := by
  cases hwindow : cu.window with
  | none => simp [discardWindow, hwindow, heldBy, freeOldest_zero hstart]
  | some r =>
    rw [discardWindow, hwindow]
    cases hsource : r.source with
    | edge n dir => simp [discardBytes, heldBy, hsource, freeOldest_zero hstart]
    | frame c =>
      by_cases hc : c = ch
      · subst hc
        simp [discardBytes, heldBy, hsource]
      · simp [discardBytes, heldBy, hsource, get_set, Ne.symm hc, hc, freeOldest_zero hstart]

theorem discardWindow_frame (cu : Capture) : discardWindow cu = { cu with rings := (discardWindow cu).rings } := by
  unfold discardWindow discardBytes
  split
  · rfl
  · split <;> rfl

/-- What a flush leaves of the rings: the bytes of the open records. -/
def Capture.flushedRings (cu : Capture) : PerChannel Ring :=
  { a := cu.rings.a.keepNewest (cu.openLength .a), b := cu.rings.b.keepNewest (cu.openLength .b) }

theorem flushedRings_get (cu : Capture) (ch : Channel) :
    cu.flushedRings.get ch = (cu.rings.get ch).keepNewest (cu.openLength ch) := by
  cases ch <;> rfl

section
variable {s : State} (h : s.portReady)
include h

theorem exec_capPop_empty (hqueue : s.cu.queue = []) : exec .capPop s = .next (s.answered .empty) := by
  refine congrArg Host.Outcome.next (atOnce_answered h ?_)
  simp only [hqueue]

theorem exec_capPop_head {r : CaptureRecord} {rest : List CaptureRecord} (hqueue : s.cu.queue = r :: rest) :
    exec .capPop s = .next (({ s with cu := { s.cu with
      window := some r, queue := rest, readIndex := 0, rings := (discardWindow s.cu).rings } }).answered .ok) := by
  refine congrArg Host.Outcome.next (atOnce_answered h ?_)
  simp only [hqueue]
  rw [discardWindow_frame s.cu]

theorem exec_capFlush : exec .capFlush s = .next (({ s with cu := { s.cu with
    queue := [], window := none, readIndex := 0, dropped := { a := 0, b := 0 }, droppedEv := 0,
    rings := s.cu.flushedRings } }).answered .ok) :=
  congrArg Host.Outcome.next (atOnce_answered h rfl)

end

/-- Settles O43: the layout of the page, then the pop of a record and the flush with what each leaves of the rings. -/
theorem capturePopAndFlush : Obligations.CapturePopAndFlush := by
  refine ⟨fun _ => capturePage_shows, rfl, fun s h => ⟨exec_capPop_empty h, fun r rest hqueue =>
    ⟨_, exec_capPop_head h hqueue, fun ch n hstart hn => ?_⟩, ⟨_, exec_capFlush h, fun ch n hopened hn => ?_⟩⟩⟩
  · subst hn
    exact discardWindow_ring hstart
  · subst hn
    rw [flushedRings_get, Ring.keepNewest, openLength_eq hopened]
    simp [Ring.freeOldest, Config.ringSize]

/-! ## The bytes of a record (R137, R145) -/

/-- The byte that stands `n` places behind the oldest of a ring. -/
theorem Ring.byteAt_behind {ring : Ring} {place n : Nat} (hstart : ring.start < 512) (hn : n < ring.held.length)
    (hlength : ring.held.length ≤ 512) (hplace : place % 512 = (ring.start + n) % 512) :
    ring.byteAt (place % Config.ringSize) = ring.held[n] := by
  have hindex : (place % 512 + 512 - ring.start) % 512 = n := by omega
  rw [Ring.byteAt, show Config.ringSize = 512 from rfl, hindex, List.getD_eq_getElem _ _ hn]

section
variable {cu : Capture} {r : CaptureRecord} {ch : Channel}

/-- A record's bytes stand one behind the other from its place on, which is `before` bytes behind the oldest. -/
theorem recordByte_eq {before i : Nat} (hsource : r.source = .frame ch) (hstart : (cu.rings.get ch).start < 512)
    (hplace : r.place = ((cu.rings.get ch).start + before) % 512) (hi : before + i < (cu.rings.get ch).held.length)
    (hlength : (cu.rings.get ch).held.length ≤ 512) : cu.recordByte r i = (cu.rings.get ch).held[before + i] := by
  rw [Capture.recordByte, hsource]
  exact Ring.byteAt_behind hstart hi hlength (by omega)

end

/-! ## CAP_DATA (R145) -/

section
variable {s : State} {r : CaptureRecord}

theorem exec_capDataRead_whole (h : s.busReady) :
    exec (.capDataRead .whole) s = .next { s with cu := advanceReadIndex s.cu, hostRead := some s.capData } :=
  congrArg Host.Outcome.next (readCycle_whole h 0x0D _)

theorem capData_pastEnd (h : ∀ r, s.cu.window = some r → r.length ≤ s.cu.readIndex) :
    s.capData = 0 ∧ advanceReadIndex s.cu = s.cu := by
  cases hwindow : s.cu.window with
  | none => simp [State.capData, advanceReadIndex, hwindow]
  | some r => simp [State.capData, advanceReadIndex, hwindow, Nat.not_lt.2 (h r hwindow)]

theorem capData_within (hwindow : s.cu.window = some r) (h : s.cu.readIndex < r.length) :
    s.capData = s.cu.recordByte r s.cu.readIndex ∧
      advanceReadIndex s.cu = { s.cu with readIndex := s.cu.readIndex + 1 } := by
  simp [State.capData, advanceReadIndex, hwindow, h]

end

/-- Settles O44: the byte at the index from the record's place, and 0 past its end. -/
theorem captureDataReadsInOrder : Obligations.CaptureDataReadsInOrder := by
  refine fun s h => ⟨fun r ch hwindow hsource hindex hstart hplace hheld hlength => ?_, fun hpast => ?_⟩
  · have hlt : 0 + s.cu.readIndex < (s.cu.rings.get ch).held.length := by omega
    obtain ⟨hdata, hadvance⟩ := capData_within hwindow hindex
    refine ⟨s.cu.recordByte r s.cu.readIndex, ?_, ?_⟩
    · rw [recordByte_eq hsource hstart (by omega) hlt hlength]
      simp
    · rw [exec_capDataRead_whole h, hdata, hadvance]
  · obtain ⟨hdata, hadvance⟩ := capData_pastEnd hpast
    rw [exec_capDataRead_whole h, hdata, hadvance]

/-! ## The rules that a frame record matches (R154) -/

/-- A list begins with another where it has its elements one by one. -/
theorem take_eq_iff_getD {bytes held : List Byte} (h : bytes.length ≤ held.length) :
    held.take bytes.length = bytes ↔ ∀ i < bytes.length, held.getD i 0 = bytes.getD i 0 := by
  constructor
  · intro heq i hi
    rw [← heq]
    simp [List.getD_eq_getElem?_getD, hi]
  · intro heach
    refine List.ext_getElem (by simpa using h) fun i hi hi' => ?_
    have := heach i hi'
    rwa [List.getD_eq_getElem _ _ (by omega), List.getD_eq_getElem _ _ hi', ← List.getElem_take] at this

theorem currentRequest_iff (tu : Triggers) (k : Fin 8) :
    currentRequest tu k = true ↔ ∃ g ∈ tu.answers, ∃ q ∈ g, q.rule = k ∧ q.current = true := by
  simp [currentRequest]

theorem sourceMatches_frame (source : TriggerSource) (ch : Channel) :
    sourceMatches source (.frame ch) = true ↔ source = .frame ch := by
  cases source <;> simp [sourceMatches]

theorem sourceMatches_edge (source : TriggerSource) (line : Fin 4) (dir : EdgeDir) :
    sourceMatches source (.edge line dir) = true ↔ source = .edge line dir := by
  cases source <;> simp [sourceMatches]

section
variable {cu : Capture} {r : CaptureRecord} {ch : Channel} {before : Nat}

/-- An undamaged frame record begins with the bytes that the rule asks for where the ring has them from the record's place on. -/
theorem prefixMatches_frame (bytes : List Byte) (hsource : r.source = .frame ch) (hstart : (cu.rings.get ch).start < 512)
    (hplace : r.place = ((cu.rings.get ch).start + before) % 512)
    (hheld : before + r.length ≤ (cu.rings.get ch).held.length) (hlength : (cu.rings.get ch).held.length ≤ 512) :
    prefixMatches cu bytes r = true ↔
      r.flags = .clear ∧ bytes.length ≤ r.length ∧ ((cu.rings.get ch).held.drop before).take bytes.length = bytes := by
  rw [prefixMatches, hsource]
  simp only [Bool.and_eq_true, beq_iff_eq, decide_eq_true_eq, List.all_eq_true, List.mem_range, and_assoc]
  refine and_congr_right fun _ => and_congr_right fun hbytes => ?_
  rw [take_eq_iff_getD (by simp only [List.length_drop]; omega)]
  refine forall₂_congr fun i hi => ?_
  have hin : before + i < (cu.rings.get ch).held.length := by omega
  have hdrop : i < ((cu.rings.get ch).held.drop before).length := by
    rw [List.length_drop]
    omega
  rw [recordByte_eq hsource hstart hplace hin hlength, List.getD_eq_getElem _ _ hdrop, List.getElem_drop]

end

theorem ruleMatches_iff (s : State) (r : CaptureRecord) (k : Fin 8) : ruleMatches s r k = true ↔
    s.tu.rules[k].enabled = true ∧
      ¬ (s.tu.rules[k].oneShot = true ∧ ∃ g ∈ s.tu.answers, ∃ q ∈ g, q.rule = k ∧ q.current = true) ∧
      sourceMatches s.tu.rules[k].source r.source = true ∧ prefixMatches s.cu s.tu.rules[k].prefixBytes r = true := by
  rw [← currentRequest_iff, ← Bool.and_eq_true, Bool.not_eq_true, ← Bool.not_eq_true', ruleMatches]
  simp only [Bool.and_eq_true, and_assoc]

/-- Settles O47. -/
theorem frameRecordMatchesByItsFirstBytes : Obligations.FrameRecordMatchesByItsFirstBytes := by
  intro s r ch k rule before hsource hrule hstart hplace hheld hlength
  subst hrule
  rw [ruleMatches_iff, prefixMatches_frame _ hsource hstart hplace hheld hlength, hsource, sourceMatches_frame]
  exact and_congr_right fun _ => and_left_comm

end Sys2Proof.Machine
end

section
/-! SUPPORT. The commands on a trigger rule with the TRIGGER page (R151 to R153, R196). -/

namespace Sys2Proof.Machine

/-! ## The TRIGGER page -/

/-- The first four bytes of a list, 0 where it has none. -/
theorem take_four_padded (l : List Byte) :
    (l ++ List.replicate 4 0).take 4 = [l.getD 0 0, l.getD 1 0, l.getD 2 0, l.getD 3 0] := by
  match l with
  | [] | [_] | [_, _] | [_, _, _] | _ :: _ :: _ :: _ :: _ => simp

theorem triggerPage_eq_fields (c : RuleCopy) :
    triggerPage c = (triggerFields c).flatMap fun f => leBytes f.2.1 f.2.2 := by
  have hflag : ∀ b : Bool, bitByte b = BitVec.ofNat 8 (bitsValue [b]) := by decide
  rw [triggerPage, take_four_padded]
  simp [triggerFields, hflag, leBytes_one]

theorem triggerPage_shows {s : State} (h : s.biu.page = 4) : s.pageShows (triggerFields s.tu.copy) := by
  refine pageShows_of_adjacent (by simp [triggerFields, Adjacent]) ?_
  rw [← triggerPage_eq_fields]
  simp [State.pageBytes, h]

/-! ## Staged rules (R151) -/

section
variable {b : Byte}

theorem triggerSourceOfByte_from_10 (h : 10 ≤ b.toNat) : triggerSourceOfByte b = none := by
  unfold triggerSourceOfByte
  split <;> first | omega | rfl

/-- A source code below 10 names a source: 0 and 1 the channels' frames, the others the edges. -/
theorem triggerSourceOfByte_below_10 (h : b.toNat < 10) : ∃ source, triggerSourceOfByte b = some source ∧
    source.code.toNat = b.toNat ∧ ((∃ ch, source = .frame ch) ∧ b.toNat < 2 ∨ ∃ n d, source = .edge n d ∧ 2 ≤ b.toNat) := by
  unfold triggerSourceOfByte
  generalize b.toNat = n at h
  interval_cases n
  · exact ⟨_, rfl, rfl, .inl ⟨⟨.a, rfl⟩, by decide⟩⟩
  · exact ⟨_, rfl, rfl, .inl ⟨⟨.b, rfl⟩, by decide⟩⟩
  all_goals exact ⟨_, rfl, rfl, .inr ⟨_, _, rfl, by decide⟩⟩

end

/-- A staged rule within range (R151). -/
abbrev ruleWithin (st : Vector Byte 11) : Prop :=
  (stagedByte st 1).toNat < 10 ∧ (stagedByte st 2).toNat ≤ 4 ∧
    ((stagedByte st 2).toNat = 0 ∨ (stagedByte st 1).toNat < 2) ∧ (stagedByte st 7).toNat < 64 ∧
    (stagedByte st 0).toNat < 2 ∧ (stagedByte st 10).toNat < 2

/-- The checks of R151 in their order: one that fails leaves no rule. -/
theorem stagedRule_outside {st : Vector Byte 11} (h : ¬ ruleWithin st) : stagedRule st = none := by
  simp only [stagedRule, stagedValue_one, yesNoOfByte_said]
  by_cases hsource : 10 ≤ (stagedByte st 1).toNat
  · rw [triggerSourceOfByte_from_10 hsource]
  obtain ⟨source, hnamed, -, hkind⟩ := triggerSourceOfByte_below_10 (Nat.lt_of_not_le hsource)
  simp only [hnamed]
  by_cases hlength : 4 < (stagedByte st 2).toNat
  · rw [if_pos hlength]
  rw [if_neg hlength]
  split
  · rfl
  rename_i hprefix
  have hallowed : (stagedByte st 2).toNat = 0 ∨ (stagedByte st 1).toNat < 2 := by
    obtain ⟨-, hframe⟩ | ⟨n, d, rfl, -⟩ := hkind
    · exact .inr hframe
    · left
      by_contra hpositive
      obtain ⟨k, hk⟩ := Nat.exists_eq_succ_of_ne_zero hpositive
      exact hprefix n d k rfl hk
  by_cases htarget : 64 ≤ (stagedByte st 7).toNat
  · rw [slotOfArg_from_64 htarget]
  by_cases henabled : 2 ≤ (stagedByte st 0).toNat
  · simp [henabled]
  by_cases honce : 2 ≤ (stagedByte st 10).toNat
  · simp [honce]
  exact absurd ⟨by omega, by omega, hallowed, by omega, by omega, by omega⟩ h

/-- What a staged rule within range is: its miss flag is clear. -/
theorem stagedRule_within {st : Vector Byte 11} (h : ruleWithin st) : ∃ rule, stagedRule st = some rule ∧
    rule.source.code.toNat = (stagedByte st 1).toNat ∧
    rule.prefixBytes = (st.toList.drop 3).take (stagedByte st 2).toNat ∧ rule.target.val = (stagedByte st 7).toNat ∧
    rule.delay = stagedValue st 8 2 ∧ (rule.enabled = true ↔ (stagedByte st 0).toNat = 1) ∧
    (rule.oneShot = true ↔ (stagedByte st 10).toNat = 1) ∧ rule.miss = false := by
  obtain ⟨hsource, hlength, hprefix, htarget, henabled, honce⟩ := h
  obtain ⟨source, hnamed, hcode, hkind⟩ := triggerSourceOfByte_below_10 hsource
  have hslot : slotOfArg (stagedByte st 7) = some ⟨(stagedByte st 7).toNat, htarget⟩ := dif_pos htarget
  refine ⟨{ enabled := decide ((stagedByte st 0).toNat = 1), source := source,
            prefixBytes := (st.toList.drop 3).take (stagedByte st 2).toNat, target := ⟨_, htarget⟩,
            delay := stagedValue st 8 2, oneShot := decide ((stagedByte st 10).toNat = 1), miss := false },
    ?_, hcode, rfl, rfl, rfl, decide_eq_true_iff, decide_eq_true_iff, rfl⟩
  simp only [stagedRule, stagedValue_one, yesNoOfByte_said, hnamed, hslot, if_neg (Nat.not_lt.2 hlength),
    if_neg (Nat.not_le.2 henabled), if_neg (Nat.not_le.2 honce)]
  obtain hnone | hbelow := hprefix
  · rw [hnone]
    cases source <;> rfl
  · obtain ⟨⟨ch, rfl⟩, -⟩ | ⟨-, -, -, hedge⟩ := hkind
    · rfl
    · omega

/-! ## The commands (R151 to R153) -/

/-- The waiting requests of a rule are detached from it (R158). -/
theorem detachRequests_eq (k : Fin 8) (tu : Triggers) : detachRequests k tu = { tu with
    answers := tu.answers.map fun g => g.map fun q => { q with current := q.current && q.rule != k } } := by
  have hone : ∀ q : ArmRequest, (if q.rule = k then { q with current := false } else q) =
      { q with current := q.current && q.rule != k } := fun q => by
    by_cases hk : q.rule = k
    · simp [hk]
    · simp [hk, bne_iff_ne.2 hk]
  simp only [detachRequests, hone]

theorem ruleOfArg_below {arg : Byte} {k : Fin 8} (h : arg.toNat = k.val) : ruleOfArg arg = some k := by
  rw [ruleOfArg, dif_pos (h ▸ k.isLt)]
  exact congrArg some (Fin.ext h)

section
variable {s t : State} {f : Fin 8 → State → State × ResultCode} (h : s.portReady)
include h

theorem ruleCommand_badArg (ha : 8 ≤ s.biu.arg.toNat) : atOnce s (fun s => ruleCommand s f) = s.answered .badArg := by
  refine atOnce_answered h ?_
  have hnone : ruleOfArg s.biu.arg = none := dif_neg (Nat.not_lt.2 ha)
  rw [ruleCommand, hnone]

theorem ruleCommand_answered {k : Fin 8} {r : ResultCode} (ha : s.biu.arg.toNat = k.val)
    (hf : f k { s with biu := { s.biu with cmdDone := false } } = ({ t with biu := { t.biu with cmdDone := false } }, r)) :
    atOnce s (fun s => ruleCommand s f) = t.answered r := by
  refine atOnce_answered h ?_
  rw [ruleCommand, ruleOfArg_below (k := k) (by exact ha)]
  exact hf

end

section
variable {s : State} (h : s.portReady) {k : Fin 8} (ha : s.biu.arg.toNat = k.val)
include h ha

theorem exec_trigRead_copies : exec .trigRead s =
    .next (({ s with tu := { s.tu with copy := { number := k, rule := s.tu.rules[k] } } }).answered .ok) :=
  congrArg Host.Outcome.next (ruleCommand_answered h ha rfl)

theorem exec_trigDisable_disables : exec .trigDisable s =
    .next (({ s with tu := { detachRequests k s.tu with
      rules := s.tu.rules.set k { s.tu.rules[k] with enabled := false } } }).answered .ok) :=
  congrArg Host.Outcome.next (ruleCommand_answered h ha rfl)

theorem exec_trigWrite_refused (hout : ¬ ruleWithin s.tu.staging) : exec .trigWrite s = .next (s.answered .badArg) := by
  refine congrArg Host.Outcome.next (ruleCommand_answered h ha ?_)
  simp only [stagedRule_outside hout]

theorem exec_trigWrite_replaces {rule : Rule} (hrule : stagedRule s.tu.staging = some rule) : exec .trigWrite s =
    .next (({ s with tu := { detachRequests k s.tu with rules := s.tu.rules.set k rule } }).answered .ok) := by
  refine congrArg Host.Outcome.next (ruleCommand_answered h ha ?_)
  simp only [hrule]

end

/-- Settles O45: the layout of the page with the source codes, the bad rule number, then one lemma for each command. -/
theorem triggerCommandsFollowTheirChecks : Obligations.TriggerCommandsFollowTheirChecks := by
  refine ⟨fun _ => triggerPage_shows, fun _ => rfl, by decide, fun s h => ⟨fun ha c hc => ?_, ?_⟩⟩
  · simp only [List.mem_cons, List.not_mem_nil, or_false] at hc
    obtain rfl | rfl | rfl := hc
    all_goals exact congrArg Host.Outcome.next (ruleCommand_badArg h ha)
  · rintro k ha _ rfl
    have hdetach := detachRequests_eq k s.tu
    refine ⟨exec_trigRead_copies h ha, ?_, ?_⟩
    · rw [exec_trigDisable_disables h ha, hdetach]
    · rintro _ _ _ _ _ rfl rfl rfl rfl rfl
      refine ⟨fun hout => exec_trigWrite_refused h ha (by omega), fun hs hl hp ht he ho => ?_⟩
      obtain ⟨rule, hrule, hfields⟩ := stagedRule_within ⟨hs, hl, hp, ht, he, ho⟩
      refine ⟨rule, ?_, hfields⟩
      rw [exec_trigWrite_replaces h ha hrule, hdetach]

end Sys2Proof.Machine
end

section
/-! SUPPORT. The edges of one tick as the Capture Unit takes them: recorded while a slot is free, and else dropped (R130, R136,
R140); and what the close of an edge record makes of the rules it matches (R154 to R160). -/

namespace Sys2Proof.Machine

/-! ## CAPTURE_LOST and ACTION_REFUSED (R136, R173) -/

theorem Notices.took_captureLost (n : Notices) (stamp : Stamp) (bodies : List NoticeBody) :
    (n.took stamp bodies).faults.getLsbD FaultFlag.captureLost.bit = n.faults.getLsbD FaultFlag.captureLost.bit := by
  simp only [Notices.took]
  split
  · rfl
  · rw [BitVec.getLsbD_or]
    exact Bool.or_false _

theorem Notices.refusing_captureLost (n : Notices) (refused : Bool) :
    (n.refusing refused).faults.getLsbD FaultFlag.captureLost.bit = n.faults.getLsbD FaultFlag.captureLost.bit := by
  cases refused with
  | false => rfl
  | true =>
    rw [Notices.refusing, if_pos rfl, BitVec.getLsbD_or]
    exact Bool.or_false _

theorem Notices.refusing_actionRefused (n : Notices) :
    (n.refusing true).faults.getLsbD FaultFlag.actionRefused.bit = true := by
  rw [Notices.refusing, if_pos rfl, BitVec.getLsbD_or]
  exact Bool.or_true _

/-- The close of a record posts misses alone: it does not touch CAPTURE_LOST. -/
theorem closeRecord_captureLost (r : CaptureRecord) (s : State) :
    (closeRecord r s).faultSet .captureLost = s.faultSet .captureLost := by
  obtain ⟨rules, -, -, -, hclosed⟩ := closeRecord_closed r s
  obtain ⟨-, -, hniu⟩ := hclosed _ _ rfl rfl
  rw [State.faultSet, hniu, Notices.took_captureLost, Notices.refusing_captureLost, State.faultSet]

/-! ## One edge (R130, R136) -/

section
variable {s : State} (stamp : Stamp) (e : Fin 4 × EdgeDir)

theorem offerEdge_recorded (h : s.cu.slotsUsed < 32) :
    offerEdge stamp s e = closeRecord (freshRecord (.edge e.1 e.2) stamp 0) s := if_pos ((slotFree_iff_slotsUsed _).2 h)

/-- Its record joins the tail of the queue with its source and stamp, closed and without bytes. -/
theorem offerEdge_recorded_cu (h : s.cu.slotsUsed < 32) : ∃ r : CaptureRecord,
    (r.source, r.stamp, r.length, r.endCause) = (CaptureSource.edge e.1 e.2, stamp, 0, none) ∧
      (offerEdge stamp s e).cu = { s.cu with queue := s.cu.queue ++ [r] } := by
  rw [offerEdge_recorded stamp e h]
  exact ⟨_, rfl, closeRecord_cu _ s⟩

theorem offerEdge_dropped (h : 32 ≤ s.cu.slotsUsed) : offerEdge stamp s e =
    { s with cu := { s.cu with droppedEv := min (s.cu.droppedEv + 1) 255 },
             niu := { s.niu with faults := s.niu.faults ||| 0x04 } } :=
  if_neg (mt (slotFree_iff_slotsUsed _).1 (Nat.not_lt.2 h))

end

/-! ## The edges of a group (R130, R136, R140) -/

/-- The state after a group of edges in which `free` record slots were free: the first edges are recorded, the rest dropped. -/
structure EdgesTaken (stamp : Stamp) (edges : List (Fin 4 × EdgeDir)) (free : Nat) (s t : State)
    (added : List CaptureRecord) : Prop where
  cu : t.cu = { s.cu with queue := s.cu.queue ++ added, droppedEv := min (s.cu.droppedEv + (edges.length - free)) 255 }
  records : (added.map fun r => (r.source, r.stamp, r.length, r.endCause)) =
    ((edges.take free).map fun e => (CaptureSource.edge e.1 e.2, stamp, 0, none))
  lost : free < edges.length → t.faultSet .captureLost = true
  kept : edges.length ≤ free → t.faultSet .captureLost = s.faultSet .captureLost

theorem offerEdges_taken (stamp : Stamp) (edges : List (Fin 4 × EdgeDir)) {free : Nat} {s : State}
    (hfree : s.cu.slotsUsed + free = 32) (hdropped : s.cu.droppedEv ≤ 255) :
    ∃ added, EdgesTaken stamp edges free s (edges.foldl (offerEdge stamp) s) added := by
  induction edges generalizing s free with
  | nil => exact ⟨[], by simp [Nat.min_eq_left hdropped], by simp, by simp, by simp⟩
  | cons e edges ih =>
    rw [List.foldl_cons]
    cases free with
    | zero =>
      have hstep := offerEdge_dropped stamp e (s := s) (by omega)
      have hset : (offerEdge stamp s e).faultSet .captureLost = true := by
        rw [hstep, State.faultSet, BitVec.getLsbD_or]
        exact Bool.or_true _
      obtain ⟨added, hcu, hrecords, hlost, hkept⟩ := ih (free := 0) (s := offerEdge stamp s e)
        (by rw [hstep]; exact hfree) (by rw [hstep]; exact Nat.min_le_right _ _)
      refine ⟨added, ?_, hrecords, fun _ => ?_, by simp⟩
      · rw [hcu, hstep]
        simp only [List.length_cons]
        congr 1
        omega
      · obtain hnone | hsome : edges.length ≤ 0 ∨ 0 < edges.length := by omega
        · exact (hkept hnone).trans hset
        · exact hlost hsome
    | succ free =>
      have hstep := offerEdge_recorded stamp e (s := s) (by omega)
      obtain ⟨r, hr, hcu'⟩ := offerEdge_recorded_cu stamp e (s := s) (by omega)
      obtain ⟨added, hcu, hrecords, hlost, hkept⟩ := ih (free := free) (s := offerEdge stamp s e)
        (by rw [hcu']; simp only [Capture.slotsUsed, List.length_append, List.length_singleton] at hfree ⊢; omega)
        (by rw [hcu']; exact hdropped)
      rw [hcu'] at hcu
      refine ⟨r :: added, ?_, ?_, fun h => hlost (by simpa using h), fun h => ?_⟩
      · rw [hcu]
        simp only [List.append_assoc, List.singleton_append, List.length_cons]
        congr 2
        omega
      · rw [List.map_cons, hrecords, hr]
        rfl
      · rw [hkept (by simpa using h), hstep, closeRecord_captureLost]

/-- EDGE_GROUP takes the oldest group that waits (R130). -/
theorem exec_edgeGroup {s : State} {g : EdgeGroup} {rest : List EdgeGroup} (h : s.mainUp) (hfound : s.evi.found = g :: rest) :
    exec .edgeGroup s = .next (g.edges.foldl (offerEdge g.stamp) { s with evi := { s.evi with found := rest } }) := by
  refine congrArg Host.Outcome.next ((whenMain_up s _ h).trans ?_)
  rw [hfound]

/-- Settles O42. -/
theorem edgeGroupsFillTheFreeSlots : Obligations.EdgeGroupsFillTheFreeSlots := by
  intro s g rest free h hfound hfree hdropped
  obtain ⟨added, htaken⟩ := offerEdges_taken g.stamp g.edges (s := { s with evi := { s.evi with found := rest } })
    hfree hdropped
  refine ⟨_, added, exec_edgeGroup h hfound, offerEdges_evi .., htaken.cu, htaken.records, htaken.lost, htaken.kept, ?_⟩
  rw [offerEdges_evi]
  exact offerEdges_frame ..

/-! ## The close of an edge record (R154 to R160) -/

section
variable {s t : State} {r : CaptureRecord} {k : Fin 8}

/-- A rule that misses at the close has its miss flag set, and ACTION_REFUSED is set (R160). -/
theorem recordClosed_miss (h : s.recordClosed t r) (hmatch : ruleMatches s r k = true) {reason : MissReason}
    (hmiss : s.missAtClose r k = some reason) :
    (t.tu.rules[k] : Rule).miss = true ∧ t.faultSet .actionRefused = true := by
  obtain ⟨rules, -, hrules, -, hclosed⟩ := h
  obtain ⟨-, hflags, hniu⟩ := hclosed _ _ rfl rfl
  have hk : k ∈ rules := (hrules k).2 hmatch
  have hmisses : (rules.filterMap fun k => (s.missAtClose r k).map fun reason =>
      NoticeBody.triggerMiss k s.tu.rules[k].target reason) ≠ [] :=
    List.ne_nil_of_mem (List.mem_filterMap.2 ⟨k, hk, by rw [hmiss]; rfl⟩)
  refine ⟨by rw [hflags k]; simp [hk, hmiss], ?_⟩
  rw [State.faultSet, hniu, Notices.took_actionRefused, decide_eq_true hmisses, Notices.refusing_actionRefused]

/-- With the record of an earlier generation every rule misses, and no request leaves (R156). -/
theorem recordClosed_stale (h : s.recordClosed t r) (hgeneration : r.stamp.generation ≠ s.tb.generation) :
    t.tu.answers = s.tu.answers := by
  obtain ⟨rules, -, -, -, hclosed⟩ := h
  obtain ⟨htu, -, -⟩ := hclosed _ _ rfl rfl
  have hnone : (rules.filter fun k => (s.missAtClose r k).isNone) = [] :=
    List.filter_eq_nil_iff.2 fun k _ => by simp [State.missAtClose, hgeneration]
  rw [htu]
  simp [hnone]

end

/-- A rule matches an edge record by its enable, its source and its own waiting requests alone (R154, R158). -/
theorem ruleMatches_edge (s : State) (line : Fin 4) (dir : EdgeDir) (stamp : Stamp) (k : Fin 8) :
    ruleMatches s (freshRecord (.edge line dir) stamp 0) k = true ↔
      s.tu.rules[k].enabled = true ∧ s.tu.rules[k].source = .edge line dir ∧
        ¬ (s.tu.rules[k].oneShot = true ∧ ∃ a ∈ s.tu.answers, ∃ q ∈ a, q.rule = k ∧ q.current = true) := by
  have hprefix : prefixMatches s.cu s.tu.rules[k].prefixBytes (freshRecord (.edge line dir) stamp 0) = true := rfl
  rw [ruleMatches_iff, hprefix, show (freshRecord (.edge line dir) stamp 0).source = .edge line dir from rfl,
    sourceMatches_edge, eq_self, and_true]
  exact and_congr_right fun _ => and_comm

theorem closeRecord_changes (r : CaptureRecord) (s : State) : closeRecord r s =
    { s with cu := { s.cu with queue := (closeRecord r s).cu.queue }, tu := (closeRecord r s).tu,
             niu := (closeRecord r s).niu } := by
  have hcu : (closeRecord r s).cu = { s.cu with queue := (closeRecord r s).cu.queue } := by rw [closeRecord_cu]
  rw [← hcu]
  exact closeRecord_frame r s

/-- The state once the first `n` edges of the oldest group are taken. -/
def State.afterEdges (s : State) (g : EdgeGroup) (rest : List EdgeGroup) (n : Nat) : State :=
  (g.edges.take n).foldl (offerEdge g.stamp) { s with evi := { s.evi with found := rest } }

theorem afterEdges_all (s : State) (g : EdgeGroup) (rest : List EdgeGroup) : s.afterEdges g rest g.edges.length =
    g.edges.foldl (offerEdge g.stamp) { s with evi := { s.evi with found := rest } } := by
  rw [State.afterEdges, List.take_length]

theorem afterEdges_next (s : State) (g : EdgeGroup) (rest : List EdgeGroup) {n : Nat} {e : Fin 4 × EdgeDir}
    (he : g.edges[n]? = some e) : s.afterEdges g rest (n + 1) = offerEdge g.stamp (s.afterEdges g rest n) e := by
  rw [State.afterEdges, List.take_add_one, he, List.foldl_append]
  rfl

/-- Settles O46: the states that the edges leave one after the other, each by whether a slot is free for its record. -/
theorem edgeRecordIsJudgedAtItsClose : Obligations.EdgeRecordIsJudgedAtItsClose := by
  intro s g rest h hfound
  refine ⟨s.afterEdges g rest, rfl, (exec_edgeGroup h hfound).trans (by rw [afterEdges_all]), ?_⟩
  intro n line dir u t record hedge hu ht hrecord
  obtain rfl : record = freshRecord (.edge line dir) g.stamp 0 := hrecord
  obtain rfl : offerEdge g.stamp u (line, dir) = t := by rw [← ht, ← hu, afterEdges_next s g rest hedge]
  have htb : u.tb = s.tb := by
    rw [← hu]
    exact offerEdges_tb ..
  refine ⟨fun hfree => ?_, fun hfull => offerEdge_dropped _ _ hfull⟩
  rw [offerEdge_recorded _ _ hfree]
  have hclosed := closeRecord_closed (freshRecord (.edge line dir) g.stamp 0) u
  refine ⟨hclosed, ruleMatches_edge u line dir g.stamp, fun k hmatch hgeneration hlate => ?_, fun k hmatch hgeneration => ?_,
    closeRecord_changes _ u⟩
  · refine recordClosed_miss hclosed hmatch (reason := .outOfRange) ?_
    rw [State.missAtClose, if_neg (by rw [htb]; exact not_not.2 hgeneration)]
    exact if_pos hlate
  · have hstale : (freshRecord (.edge line dir) g.stamp 0).stamp.generation ≠ u.tb.generation := by rw [htb]; exact hgeneration
    obtain ⟨hflag, hrefused⟩ := recordClosed_miss hclosed hmatch (reason := .staleTime) (if_pos hstale)
    exact ⟨hflag, hrefused, recordClosed_stale hclosed hstale⟩

end Sys2Proof.Machine
end

section
/-! SUPPORT. The CHANNEL page (R112, R196), and the bits of a character on the line (R97). -/

namespace Sys2Proof.Machine

/-! ## The CHANNEL page -/

/-- The locations of the head request that the table of the page leaves out, which read 0. -/
def channelBlank (c : ChannelCopy) : List (Nat × Nat × Nat) :=
  match c.head.request with
  | none => [(0x1A, 9, 0)]
  | some (.send _ _ _) => [(0x1F, 2, 0)]
  | some (.brk _) => [(0x1B, 1, 0), (0x1D, 2, 0)]

/-- The fields of the head request in the order of their locations, those of the value 0 included. -/
def headFieldsInOrder (h : HeadCopy) : List (Nat × Nat × Nat) :=
  match h.request with
  | none => [(0x1A, 9, 0)]
  | some (.send m source notify) =>
    [(0x1A, 1, 1), (0x1B, 1, m.val), (0x1C, 1, source.code.toNat), (0x1D, 1, bitsValue [notify]), (0x1E, 1, h.byteIndex),
     (0x1F, 2, 0), (0x21, 2, h.elapsed)]
  | some (.brk n) =>
    [(0x1A, 1, 2), (0x1B, 1, 0), (0x1C, 1, 64), (0x1D, 2, 0), (0x1F, 1, n), (0x20, 1, h.breakRemaining), (0x21, 2, h.elapsed)]

/-- The fields of the channel copy in the order of their locations: the head request stands behind the first nine of the table. -/
def channelFieldsInOrder (c : ChannelCopy) : List (Nat × Nat × Nat) :=
  (channelFields c).take 9 ++ (headFieldsInOrder c.head ++ ((channelFields c).drop 9).take 12)

theorem channelBlank_value (c : ChannelCopy) : ∀ f ∈ channelBlank c, f.2.2 = 0 := by
  unfold channelBlank
  split <;> simp

theorem channelFieldsInOrder_adjacent (c : ChannelCopy) : Adjacent 16 (channelFieldsInOrder c) := by
  cases hrequest : c.head.request with
  | none => simp [channelFieldsInOrder, channelFields, headFieldsInOrder, hrequest, Adjacent]
  | some r => cases r <;> simp [channelFieldsInOrder, channelFields, headFieldsInOrder, hrequest, Adjacent]

/-- The head's fields are those of the table behind its first 21 and the blank ones. -/
theorem headFieldsInOrder_perm (c : ChannelCopy) :
    (headFieldsInOrder c.head).Perm ((channelFields c).drop 21 ++ channelBlank c) := by
  have hsorted : (((channelFields c).drop 21 ++ channelBlank c).insertionSort fun f g => f.1 ≤ g.1) =
      headFieldsInOrder c.head := by
    cases hrequest : c.head.request with
    | none => simp [channelFields, headFieldsInOrder, channelBlank, hrequest]
    | some r => cases r <;> simp [channelFields, headFieldsInOrder, channelBlank, hrequest]
  rw [← hsorted]
  exact List.perm_insertionSort _ _

theorem channelFieldsInOrder_perm (c : ChannelCopy) :
    (channelFieldsInOrder c).Perm (channelFields c ++ channelBlank c) := by
  have hjoin : (channelFields c).take 9 ++ (((channelFields c).drop 9).take 12 ++ (channelFields c).drop 21) =
      channelFields c := by
    rw [show 21 = 9 + 12 from rfl, ← List.drop_drop, List.take_append_drop, List.take_append_drop]
  have hrest : (headFieldsInOrder c.head ++ ((channelFields c).drop 9).take 12).Perm
      (((channelFields c).drop 9).take 12 ++ ((channelFields c).drop 21 ++ channelBlank c)) :=
    List.perm_append_comm.trans ((headFieldsInOrder_perm c).append_left _)
  refine (hrest.append_left _).trans (.of_eq ?_)
  rw [← List.append_assoc (((channelFields c).drop 9).take 12), ← List.append_assoc, hjoin]

/-- Two numbers below 16 side by side in one byte. -/
theorem nibbles_eq {a b : Nat} (ha : a < 16) (hb : b < 16) :
    BitVec.ofNat 8 a ||| (BitVec.ofNat 8 b <<< 4) = BitVec.ofNat 8 (a + 16 * b) := by
  refine BitVec.eq_of_toNat_eq ?_
  have hor := Nat.shiftLeft_add_eq_or_of_lt (a := b) (b := a) (i := 4) ha
  have hshift : b <<< 4 = 16 * b := by rw [Nat.shiftLeft_eq]; omega
  rw [BitVec.toNat_or, BitVec.toNat_shiftLeft, BitVec.toNat_ofNat, BitVec.toNat_ofNat, BitVec.toNat_ofNat,
    Nat.mod_eq_of_lt (show a < 2 ^ 8 by omega), Nat.mod_eq_of_lt (show b < 2 ^ 8 by omega), hshift,
    Nat.mod_eq_of_lt (show 16 * b < 2 ^ 8 by omega), Nat.mod_eq_of_lt (show a + 16 * b < 2 ^ 8 by omega), Nat.or_comm,
    ← hshift, ← hor]
  omega

theorem bitsValue_lt (l : List Bool) : bitsValue l < 2 ^ l.length := by
  induction l with
  | nil => simp [bitsValue]
  | cons b rest ih =>
    simp only [bitsValue, List.length_cons, Nat.pow_succ]
    split <;> omega

/-- The enables of the event inputs, rising below and falling above. -/
theorem enablesByte_eq (rising falling : BitVec 4) : rising.setWidth 8 ||| (falling.setWidth 8 <<< 4) =
    BitVec.ofNat 8 (rising.toNat + 16 * falling.toNat) := by
  rw [← BitVec.ofNat_toNat, ← BitVec.ofNat_toNat, nibbles_eq rising.isLt falling.isLt]

/-- The samples of the event inputs, their levels below and their presence above. -/
theorem samplesByte_eq (samples : Vector (Option Bool) 4) :
    flagsByte (samples.toList.map fun x => x.getD false) ||| (flagsByte (samples.toList.map Option.isSome) <<< 4) =
      BitVec.ofNat 8 (bitsValue (samples.toList.map fun x => x == some true) +
        16 * bitsValue (samples.toList.map Option.isSome)) := by
  have hlevel : (fun x : Option Bool => x.getD false) = fun x => x == some true := by
    funext x
    rcases x with _ | _ | _ <;> rfl
  have hlt : ∀ f : Option Bool → Bool, bitsValue (samples.toList.map f) < 16 := fun f =>
    (bitsValue_lt _).trans_eq (by simp)
  rw [flagsByte_eq, flagsByte_eq, hlevel, nibbles_eq (hlt _) (hlt _)]

theorem terminatorByte_eq (terminator : Option Byte) :
    terminator.getD 0 = BitVec.ofNat 8 (terminator.elim 0 BitVec.toNat) := by
  cases terminator <;> simp

/-- The CHANNEL page is the bytes of its fields: the configuration, the transmitter with its head, the receiver, its frame rules
and the event inputs. -/
theorem channelPage_eq_fields (c : ChannelCopy) :
    channelPage c = (channelFieldsInOrder c).flatMap fun f => leBytes f.2.1 f.2.2 := by
  have hflag : ∀ b : Bool, bitByte b = BitVec.ofNat 8 (bitsValue [b]) := by decide
  rw [channelPage, enablesByte_eq, samplesByte_eq]
  simp only [terminatorByte_eq, hflag, flagsByte_eq, headBytes]
  cases hrequest : c.head.request with
  | none => simp [channelFieldsInOrder, channelFields, headFieldsInOrder, hrequest, leBytes]
  | some r => cases r <;> simp [channelFieldsInOrder, channelFields, headFieldsInOrder, hrequest, leBytes, Source.code]

theorem channelPage_shows {s : State} (h : s.biu.page = 2) : s.pageShows (channelFields s.ser.copy) := by
  have hbytes : s.pageBytes = channelPage s.ser.copy := by simp [State.pageBytes, h]
  exact pageShows_of_perm (inOrder := channelFieldsInOrder s.ser.copy) (channelBlank_value s.ser.copy)
    (channelFieldsInOrder_perm s.ser.copy) (channelFieldsInOrder_adjacent s.ser.copy)
    (hbytes.trans (channelPage_eq_fields s.ser.copy))

/-! ## A character bit by bit (R97) -/

theorem parityBit_eq (c : ChannelConfig) (b : Byte) : (c.parityBit b).toList =
    match c.parity with
    | .none => []
    | .even => [decide (((List.range c.dataBits.count).filter fun i => b.getLsbD i).length % 2 = 1)]
    | .odd => [decide (((List.range c.dataBits.count).filter fun i => b.getLsbD i).length % 2 = 0)] := by
  have hodd : oddOnes (dataBitList c.dataBits.count b) =
      decide (((List.range c.dataBits.count).filter fun i => b.getLsbD i).length % 2 = 1) := by
    rw [oddOnes_eq, dataBitList, List.count, List.countP_map, List.countP_eq_length_filter]
    simp [Function.comp_def, beq_eq_decide]
  unfold ChannelConfig.parityBit
  rw [hodd]
  cases c.parity with
  | none | even => rfl
  | odd =>
    by_cases h : ((List.range c.dataBits.count).filter fun i => b.getLsbD i).length % 2 = 1
    · simp [h]
    · simp [Nat.mod_two_ne_one.1 h]

theorem characterBits_said (c : ChannelConfig) (b : Byte) : c.characterBits b =
    [false] ++ ((List.range c.dataBits.count).map fun i => b.getLsbD i) ++ (c.parityBit b).toList ++
      List.replicate (if c.stopBits = .one then 1 else 2) true := by
  have hstop : c.stopBits.count = if c.stopBits = .one then 1 else 2 := by cases c.stopBits <;> rfl
  rw [ChannelConfig.characterBits, hstop]
  rfl

theorem dataBits_count (c : ChannelConfig) : c.dataBits.count = if c.dataBits = .seven then 7 else 8 := by
  cases c.dataBits <;> rfl

end Sys2Proof.Machine
end

section
/-! SUPPORT. CH_READ, with the gap count that it finds (R112, R123, R128; log 9), and LOOP_SET (R110, R115). -/

namespace Sys2Proof.Machine

/-! ## The gap count that a CH_READ finds -/

section
variable {s : State} {ch : Channel}

theorem waits_iff (r : Receiver) : r.waits = true ↔ r.state = .inFrame ∧ r.lowWatch = none := by
  simp [Receiver.waits]

/-- A CH_READ finds the gap count and the level at the input, and nothing else of a receiver anew. -/
theorem receiverFound_frame (s : State) (ch : Channel) : receiverFound s ch =
    { s.rx ch with gap := (receiverFound s ch).gap, input := (receiverFound s ch).input } := by
  unfold receiverFound
  dsimp only
  split <;> rfl

theorem receiverFound_keeps (h : ¬ (s.rx ch).waits = true) : receiverFound s ch = s.rx ch := if_neg h

theorem receiverFound_input (h : (s.rx ch).waits = true) :
    (receiverFound s ch).input = some ((s.rx ch).input.getD (inputFound s ch)) := by
  rw [receiverFound, if_pos h]

/-- The gap count has risen, where the input stands at 1 or can have stood so on the looped line (R123). -/
theorem receiverFound_gap (h : (s.rx ch).waits = true) : (receiverFound s ch).gap =
    if inputFound s ch || (s.ser.loop && canBeAtMark s ch) then
      gapRaised s ch (Config.gapDraw s.gapDraws) (gapReach s ch)
    else (s.rx ch).gap := by
  rw [receiverFound, if_pos h]

/-- An input that is known to stand at a level is found there. -/
theorem receiverFound_input_known (h : (s.rx ch).input ≠ none) : (receiverFound s ch).input = (s.rx ch).input := by
  by_cases hwaits : (s.rx ch).waits = true
  · obtain ⟨level, hlevel⟩ := Option.ne_none_iff_exists'.1 h
    rw [receiverFound_input hwaits, hlevel]
    rfl
  · rw [receiverFound_keeps hwaits]

/-- The count is the receiver's own, or one that bit times of mark have raised. -/
theorem receiverFound_gap_cases (s : State) (ch : Channel) : (receiverFound s ch).gap = (s.rx ch).gap ∨
    (receiverFound s ch).gap = gapRaised s ch (Config.gapDraw s.gapDraws) (gapReach s ch) := by
  by_cases hwaits : (s.rx ch).waits = true
  · rw [receiverFound_gap hwaits]
    split
    · exact .inr rfl
    · exact .inl rfl
  · rw [receiverFound_keeps hwaits]
    exact .inl rfl

/-- On a pin the level that is found is the level at which the count has risen or stood still. -/
theorem receiverFound_off (hl : s.ser.loop = false) (hon : (s.chan ch).config.rxEnable = true)
    (hwaits : (s.rx ch).waits = true) :
    (receiverFound s ch).input = some (inputFound s ch) ∧
      (inputFound s ch = false → (receiverFound s ch).gap = (s.rx ch).gap) := by
  have hknown : inputKnown s ch = (s.rx ch).input := by simp [inputKnown, hl, hon]
  refine ⟨?_, fun hlow => ?_⟩
  · rw [receiverFound_input hwaits, inputFound, hknown]
    cases (s.rx ch).input <;> rfl
  · rw [receiverFound_gap hwaits, hlow, hl]
    rfl

/-- While the looped line holds the input at 0 the count stands still. -/
theorem receiverFound_held_low (h : ¬ s.mayBeAtMark ch) : (receiverFound s ch).gap = (s.rx ch).gap := by
  by_cases hwaits : (s.rx ch).waits = true
  · have hmark : canBeAtMark s ch = false := by rwa [← Bool.not_eq_true, canBeAtMark_said]
    have hlow : ¬ s.mayStandAt ch true := mt .inl h
    have hfound : inputFound s ch = false := by
      have hl : s.ser.loop = true := by
        by_contra hl
        exact hlow (.inl (by simpa using hl))
      have hout : (s.tx (otherChannel ch)).out.level = some false := by
        cases hout : (s.tx (otherChannel ch)).out <;> simp [State.mayStandAt, hout, TxOut.level] at hlow ⊢
      simp [inputFound, inputKnown, hl, hout]
    rw [receiverFound_gap hwaits, hfound, hmark]
    simp
  · rw [receiverFound_keeps hwaits]

/-- With a line of so many bits of 1 no more of mark counts than these have lasted (R111). -/
theorem gapRaised_le_line {line : List Bool} {m : Nat} (hline : s.lineShows ch line) (hm : (s.rx ch).place.mark = some m)
    (bitTimes moment : Nat) : gapRaised s ch bitTimes moment ≤ max (s.rx ch).gap
      ((m + line.count true * (2 * (s.chan (otherChannel ch)).config.divisor)) / (2 * (s.chan ch).config.divisor)) := by
  obtain ⟨hl, ho, rfl⟩ := lineShows_bits hline
  have hones := onesBetween_le (s.chan (otherChannel ch)).lineBits (lineUnit s ch) (s.rx ch).place.counted moment
  have hquotient := Nat.div_le_div_right (c := 2 * (s.chan ch).config.divisor) (Nat.add_le_add_left hones m)
  unfold gapRaised
  dsimp only
  rw [markHeard_bounded moment hl ho hm]
  exact max_le_max (Nat.le_refl _) ((Nat.min_le_right _ _).trans ((Nat.min_le_right _ _).trans hquotient))

/-- A gap count that stands below the frame's end stays below it. -/
theorem gapRaised_lt (h : (s.rx ch).gap < (s.rx ch).rules.gap * (s.chan ch).config.charBits) (bitTimes moment : Nat) :
    gapRaised s ch bitTimes moment < (s.rx ch).rules.gap * (s.chan ch).config.charBits := by
  have hmost : ∀ most, most ≤ (s.chan ch).gapLimit - 1 →
      max (s.rx ch).gap (min ((s.rx ch).gap + bitTimes) most) < (s.rx ch).rules.gap * (s.chan ch).config.charBits := by
    intro most hle
    have hlimit : (s.chan ch).gapLimit = (s.rx ch).rules.gap * (s.chan ch).config.charBits := rfl
    omega
  unfold gapRaised
  dsimp only
  split
  · exact hmost _ (Nat.min_le_left _ _)
  · exact hmost _ (Nat.le_refl _)

end

/-! ## CH_READ -/

/-- The state as a CH_READ leaves it, but for its answer: the copy, and what it has found of the receiver. -/
def State.channelRead (s : State) (ch : Channel) : State :=
  let found := s.withRx ch (receiverFound s ch)
  { found with
    ser := { found.ser with copy := channelCopyOf ch found }
    gapDraws := if (s.rx ch).waits then s.gapDraws + 1 else s.gapDraws }

theorem exec_chRead_copies {s : State} (h : s.portReady) {ch : Channel} (ha : s.biu.arg = channelCode ch) :
    exec .chRead s = .next ((s.channelRead ch).answered .ok) :=
  congrArg Host.Outcome.next (channelCommand_answered h ha rfl)

/-- The copy that a CH_READ makes: the channel as it stands, with the gap count that is found. -/
def State.copyFound (s : State) (ch : Channel) : ChannelCopy := { channelCopyOf ch s with gap := (receiverFound s ch).gap }

theorem channelCopyOf_found (s : State) (ch : Channel) :
    channelCopyOf ch (s.withRx ch (receiverFound s ch)) = s.copyFound ch := by
  have hcopy : ∀ r : Receiver, channelCopyOf ch (s.withRx ch r) = { channelCopyOf ch s with
      rxState := r.state, frame := r.frame, chars := r.chars, flags := r.flags, gap := r.gap,
      markQualified := r.markQualified, rules := r.rules } := fun r => by cases ch <;> rfl
  rw [hcopy, receiverFound_frame]
  rfl

/-- CH_READ leaves its copy, and of the receiver the gap count and the level that it has found. -/
theorem exec_chRead_found {s : State} (h : s.portReady) {ch : Channel} (ha : s.biu.arg = channelCode ch) :
    exec .chRead s =
      .next (({ s.withRx ch { s.rx ch with gap := (s.copyFound ch).gap, input := (receiverFound s ch).input } with
        ser := { (s.withRx ch { s.rx ch with gap := (s.copyFound ch).gap, input := (receiverFound s ch).input }).ser with
          copy := s.copyFound ch }
        gapDraws := if (s.rx ch).waits then s.gapDraws + 1 else s.gapDraws }).answered .ok) := by
  have hfound : { s.rx ch with gap := (s.copyFound ch).gap, input := (receiverFound s ch).input } = receiverFound s ch :=
    (receiverFound_frame s ch).symm
  rw [exec_chRead_copies h ha, hfound, ← channelCopyOf_found]
  rfl

/-! ## LOOP_SET -/

theorem betweenCharacters_iff (r : Receiver) : r.betweenCharacters = false ↔ r.state = .inChar ∨ r.state = .brk := by
  cases hstate : r.state <;> simp [Receiver.betweenCharacters, hstate]

/-- A transmitter or a receiver that is at work lets the cross-loop not be set (R110). -/
def State.loopHeld (s : State) : Prop :=
  (s.tx .a).state ≠ .idle ∨ (s.tx .b).state ≠ .idle ∨
    (s.rx .a).state = .inChar ∨ (s.rx .a).state = .brk ∨ (s.rx .b).state = .inChar ∨ (s.rx .b).state = .brk

theorem loopHeld_iff (s : State) : s.loopHeld ↔ ((s.tx .a).state ≠ .idle ∨ (s.tx .b).state ≠ .idle) ∨
    (!(s.rx .a).betweenCharacters || !(s.rx .b).betweenCharacters) = true := by
  simp only [Bool.or_eq_true, Bool.not_eq_true', betweenCharacters_iff, State.loopHeld, or_assoc]

section
variable {s : State} (h : s.portReady) {setting : Bool} (ha : s.biu.arg = bitByte setting)
include h ha

omit h in
theorem yesNo_setting : yesNoOfByte s.biu.arg = some setting := by
  rw [ha]
  cases setting <;> rfl

theorem exec_loopSet_held (hheld : s.loopHeld) : exec .loopSet s = .next (s.answered .badState) := by
  refine congrArg Host.Outcome.next (atOnce_answered h ?_)
  simp only [yesNo_setting ha]
  by_cases htx : (s.tx .a).state ≠ .idle ∨ (s.tx .b).state ≠ .idle
  · exact if_pos htx
  · exact (if_neg htx).trans (if_pos (((loopHeld_iff s).1 hheld).resolve_left htx))

/-- Free to be set, the cross-loop takes the setting; a new one makes both receivers watch their inputs afresh (R110, R115). -/
theorem exec_loopSet_free (hfree : ¬ s.loopHeld) : exec .loopSet s =
    .next (if setting = s.ser.loop then s.answered .ok
      else ({ s with ser := { s.ser with
        loop := setting
        chans := {
          a := { s.chan .a with rx := (s.rx .a).afresh (if setting then some true else none) }
          b := { s.chan .b with rx := (s.rx .b).afresh (if setting then some true else none) } } } }).answered .ok) := by
  obtain ⟨htx, hrx⟩ := not_or.1 (mt (loopHeld_iff s).2 hfree)
  refine congrArg Host.Outcome.next ?_
  by_cases hsame : setting = s.ser.loop
  · rw [if_pos hsame]
    refine atOnce_answered h ?_
    simp only [yesNo_setting ha]
    exact (if_neg htx).trans ((if_neg hrx).trans (if_pos hsame))
  · rw [if_neg hsame]
    refine atOnce_answered h ?_
    simp only [yesNo_setting ha]
    exact (if_neg htx).trans ((if_neg hrx).trans (if_neg hsame))

end

/-- ARG of 2 to 255 is no setting (R110). -/
theorem exec_loopSet_badArg {s : State} (h : s.portReady) (ha : 2 ≤ s.biu.arg.toNat) :
    exec .loopSet s = .next (s.answered .badArg) := by
  have hnone : yesNoOfByte s.biu.arg = none := by rw [yesNoOfByte_said, if_pos ha]
  refine congrArg Host.Outcome.next (atOnce_answered h ?_)
  simp only [hnone]

/-- Settles O36: the page and the pins, the bits of a character, then CH_READ with what it finds, and LOOP_SET. -/
theorem channelCopyAndCrossLoop : Obligations.ChannelCopyAndCrossLoop := by
  refine ⟨fun _ => channelPage_shows, rfl, rfl, rfl, rfl, rfl, rfl, fun s ch => rfl, ?_, fun s h => ⟨?_, ?_, ?_⟩⟩
  · rintro c b n parity rfl rfl
    rw [characterBits_said, parityBit_eq, dataBits_count] <;> rfl
  · exact fun ha => ⟨congrArg Host.Outcome.next (channelCommand_badArg h ha), exec_loopSet_badArg h ha⟩
  · intro ch ha
    refine ⟨s.copyFound ch, if (s.rx ch).waits then s.gapDraws + 1 else s.gapDraws, (receiverFound s ch).input,
      exec_chRead_found h ha, rfl, rfl, rfl, rfl, rfl, rfl, rfl, rfl, rfl, rfl, rfl, rfl, rfl, rfl, rfl, rfl, rfl, rfl,
      fun hbusy => ?_, receiverFound_input_known, fun hl hhears hstate hlow => ?_, receiverFound_held_low,
      fun line m hline hm => ?_, fun hlt => ?_⟩
    · have hwaits : ¬ (s.rx ch).waits = true := fun hwaits => by
        obtain ⟨hstate, hlow⟩ := (waits_iff _).1 hwaits
        simp [hstate, hlow] at hbusy
      have hkept := receiverFound_keeps hwaits
      exact ⟨congrArg Receiver.gap hkept, if_neg hwaits, congrArg Receiver.input hkept⟩
    · obtain ⟨hinput, hstill⟩ := receiverFound_off hl hhears.2 ((waits_iff _).2 ⟨hstate, hlow⟩)
      rw [hinput]
      exact ⟨by simp, fun hfalse => hstill (Option.some.inj hfalse)⟩
    · obtain hsame | hraised := receiverFound_gap_cases s ch
      · exact hsame.trans_le (Nat.le_max_left _ _)
      · exact hraised.trans_le (gapRaised_le_line hline hm _ _)
    · obtain hsame | hraised := receiverFound_gap_cases s ch
      · exact ⟨hsame.ge, hsame.trans_lt hlt⟩
      · exact ⟨(gapRaised_ge s ch _ _).trans hraised.ge, hraised.trans_lt (gapRaised_lt hlt _ _)⟩
  · intro setting ha
    by_cases hheld : s.loopHeld
    · exact (exec_loopSet_held h ha hheld).trans (congrArg _ (if_pos hheld).symm)
    · exact (exec_loopSet_free h ha hheld).trans (congrArg _ (if_neg hheld).symm)

end Sys2Proof.Machine
end

section
/-! SUPPORT. The levels at a receiver's input, from its pin or from the looped line: falls, rises and bit times of mark (R111, R116,
R118, R119, R123). -/

namespace Sys2Proof.Machine

section
variable {s : State} {ch : Channel}

/-! ## Falls (R116, R118) -/

/-- What a fall begins is what the receiver hears of it, at the place that it then has. -/
theorem fallBegins_heard {k : Nat} {heard : Option LoopHeard} {place : LinePlace} (h : s.fallBegins ch k heard place) :
    loopHeard s ch k = heard ∧ placePastFall s ch k = place ∧ (s.ser.loop && heard.isNone) = false := by
  obtain ⟨hl, rfl, rfl⟩ | ⟨hl, bits, hbits, hzero, hbefore, hplace, hnext, rfl, rfl⟩ := h
  · exact ⟨by simp [loopHeard, hl], by simp [placePastFall, hl], by simp [hl]⟩
  · obtain ⟨hfall, hheard, -⟩ := fallLeft_said s ch k ⟨hl, bits, hbits, hzero, hbefore, hplace⟩
    obtain rfl := lineCarries_bits s ch bits hbits
    exact ⟨(loopHeard_eq_some s ch k _).2 ⟨⟨hl, hfall, hheard, hnext⟩, rfl⟩, rfl, by simp⟩

theorem exec_rxFall_takes {fall : Fall} {heard : Option LoopHeard} {place : LinePlace} (h : s.hears ch)
    (hlow : (s.rx ch).lowWatch = none) (hin : (s.rx ch).input ≠ some false)
    (hfall : s.fallBegins ch fall.bit.val heard place) :
    exec (.rxFall ch fall) s = .next (s.withRx ch {
      (s.rx ch).fall s.present (gapRaised s ch fall.markBits.toNat (fall.bit.val * lineUnit s ch)) heard with
      place := place }) := by
  obtain ⟨hheard, hplace, hsome⟩ := fallBegins_heard hfall
  refine congrArg Host.Outcome.next ((whenListening_hears h _).trans ?_)
  simp only [hheard, hplace, hsome, hlow, Receiver.canGoTo]
  exact if_neg (by simpa using hin)

section
variable {r : Receiver} {now : Stamp} {gap : Nat} {heard : Option LoopHeard}

theorem fall_of_idle (h : r.state = .idle) : r.fall now gap heard = { r with
    state := if r.markQualified then .inChar else .idle, noted := some now, markQualified := false,
    lowWatch := some { stamp := now, byStartBit := r.markQualified, looped := heard }, input := some false,
    looped := heard, startConfirmed := false } := by
  simp only [Receiver.fall, h]

theorem fall_of_inFrame (h : r.state = .inFrame) : r.fall now gap heard = { r with
    state := if r.markQualified then .inChar else .inFrame, gap := gap, markQualified := false,
    lowWatch := some { stamp := now, byStartBit := r.markQualified, looped := heard }, input := some false,
    looped := heard, startConfirmed := false } := by
  simp only [Receiver.fall, h]

theorem fall_of_inChar (h : r.state = .inChar) : r.fall now gap heard = { r with
    markQualified := false, lowWatch := some { stamp := now, byStartBit := false, looped := heard },
    input := some false } := by
  simp only [Receiver.fall, h]

theorem rise_of_brk (h : r.state = .brk) :
    r.rise = { r with state := .idle, markQualified := false, lowWatch := none, input := some true } := by
  simp only [Receiver.rise, h]

theorem rise_of_not_brk (h : r.state ≠ .brk) : r.rise = { r with lowWatch := none, input := some true } := by
  cases hr : r.state with
  | idle | inFrame | inChar => simp only [Receiver.rise, hr]
  | brk => exact absurd hr h

end

/-- A fall that does not begin anything for the receiver changes nothing. -/
theorem exec_rxFall_unheard {fall : Fall} (hnone : (s.rx ch).lowWatch.isSome = true ∨ (s.rx ch).input = some false ∨
      ∀ heard place, ¬ s.fallBegins ch fall.bit.val heard place) : exec (.rxFall ch fall) s = .next s := by
  obtain hlow | hin | hbegins := hnone
  · exact congrArg Host.Outcome.next (whenListening_keeps ch (by simp [hlow]))
  · exact congrArg Host.Outcome.next (whenListening_keeps ch (by simp [hin, Receiver.canGoTo]))
  · have hl : s.ser.loop = true := by
      by_contra hl
      exact hbegins none _ (.inl ⟨by simpa using hl, rfl, rfl⟩)
    refine exec_rxFall_keeps hl ?_
    rw [Option.eq_none_iff_forall_ne_some]
    exact fun heard hheard => hbegins _ _ (fallBegins_said s ch _ heard hheard)

/-- So does one that has something to be heard before it. -/
theorem exec_rxFall_early {fall : Fall} (hl : s.ser.loop = true) (hnext : fallIsNext s ch fall.bit.val = false) :
    exec (.rxFall ch fall) s = .next s := by
  refine exec_rxFall_keeps hl ?_
  rw [Option.eq_none_iff_forall_ne_some]
  intro heard hheard
  have hn := ((loopHeard_eq_some s ch _ heard).1 hheard).1.2.2.2
  rw [hnext] at hn
  exact Bool.false_ne_true hn

/-- On a pin mark raises the gap count up to the frame's end. -/
theorem gapRaised_off (hl : s.ser.loop = false) (bitTimes moment : Nat) : gapRaised s ch bitTimes moment =
    max (s.rx ch).gap
      (min ((s.rx ch).gap + bitTimes) ((s.rx ch).rules.gap * (s.chan ch).config.charBits - 1)) := by
  rw [gapRaised, markHeard_unbounded moment (.inl hl)]
  rfl

/-! ## Rises (R118, R119) -/

theorem exec_rxRise_takes {place : LinePlace} (h : s.hears ch) (hplace : placeAtRise s ch = some place) :
    exec (.rxRise ch) s = .next (s.withRx ch { (s.rx ch).rise with place := place }) := by
  refine congrArg Host.Outcome.next ((whenListening_hears h _).trans ?_)
  simp only [hplace]

theorem exec_rxRise_keeps (hplace : placeAtRise s ch = none) : exec (.rxRise ch) s = .next s :=
  congrArg Host.Outcome.next (whenListening_keeps ch (by simp only [hplace]))

theorem rise_lowWatch (r : Receiver) : r.rise.lowWatch = none := by
  unfold Receiver.rise
  split <;> rfl

/-- The input does not rise where it cannot stand at 1. -/
theorem placeAtRise_held (h : ¬ s.mayStandAt ch true) : placeAtRise s ch = none := by
  cases hrise : placeAtRise s ch with
  | none => rfl
  | some place => exact absurd ((inputCanBe_said s ch true).1 (placeAtRise_heard s ch place hrise).1) h

section
variable {low : LowWatch} {h : LoopHeard} (hl : s.ser.loop = true) (hlow : (s.rx ch).lowWatch = some low)
  (hlooped : low.looped = some h)
include hl hlooped

theorem mayLastLow_iff : s.mayLastLow ch low ↔
    h.staysLow (s.chan ch).config.divisor (s.chan ch).config.charBits = true := by
  rw [staysLow_iff]
  simp [State.mayLastLow, hl, hlooped]

include hlow

/-- A line that has not come to its next 1 does not rise. -/
theorem placeAtRise_low (hrises : h.risesAt = none) : placeAtRise s ch = none := by
  unfold placeAtRise
  simp [hl, hlow, hlooped, hrises]

theorem placeAtRise_looped (hmay : s.mayStandAt ch true) (hshort : (s.rx ch).state = .brk ∨ ¬ s.mayLastLow ch low) :
    placeAtRise s ch = h.risesAt.map fun j =>
      { placeAt s ch h (j * h.unit) with
        whole := true
        tracked := (s.rx ch).place.tracked || (momentOnLine s ch h (j * h.unit)).isSome } := by
  have hcan : inputCanBe s ch true = true := (inputCanBe_said s ch true).2 hmay
  have hends : ¬ ((s.rx ch).state ≠ .brk ∧
      h.staysLow (s.chan ch).config.divisor (s.chan ch).config.charBits = true) := by
    rw [← mayLastLow_iff hl hlooped]
    tauto
  simp only [placeAtRise, hl, hcan, hlow, Option.bind_some, hlooped, if_neg hends]
  rfl

/-- The break that a long low is comes before its rise (R118). -/
theorem placeAtRise_break (hstate : (s.rx ch).state ≠ .brk) (hlong : s.mayLastLow ch low) : placeAtRise s ch = none := by
  have hstays := (mayLastLow_iff hl hlooped).1 hlong
  unfold placeAtRise
  simp [hl, hlow, hlooped, hstate, hstays]

end

/-- A line whose bits are all at 0 and that carries them still has not come to a rise. -/
theorem risesAt_none {h : LoopHeard} (hzero : ∀ b ∈ h.bits, b = false) {since : Nat} (hafter : h.after = .carries since) :
    h.risesAt = none := by
  have hnone : nextOne h.bits h.unit 0 = none := by
    refine List.find?_eq_none.2 fun j hj => ?_
    have hb : h.bits.getD j false = false := by
      rw [List.getD_eq_getElem _ _ (List.mem_range.1 hj)]
      exact hzero _ (List.getElem_mem _)
    simp only [hb, Bool.false_and, Bool.false_eq_true, not_false_eq_true]
  rw [LoopHeard.risesAt, hnone, hafter]

/-- A line with a bit at 1 rises with it, or before. -/
theorem risesAt_some {h : LoopHeard} (hd : 1 ≤ h.divisor) (hone : true ∈ h.bits) : ∃ j, h.risesAt = some j := by
  obtain ⟨j, hj, hget⟩ := List.mem_iff_getElem.1 hone
  have hfound : (nextOne h.bits h.unit 0).isSome = true := by
    rw [nextOne, List.find?_isSome]
    refine ⟨j, List.mem_range.2 hj, ?_⟩
    rw [List.getD_eq_getElem _ _ hj, hget, Bool.true_and, decide_eq_true_eq]
    exact Nat.mul_pos (Nat.succ_pos j) (Nat.mul_pos two_pos hd)
  obtain ⟨i, hi⟩ := Option.isSome_iff_exists.1 hfound
  exact ⟨i, by rw [LoopHeard.risesAt, hi]⟩

/-! ## Bit times of mark (R116) -/

theorem exec_markQualified_takes {place : LinePlace} (h : s.hears ch) (hstate : (s.rx ch).state ≠ .brk)
    (hlow : (s.rx ch).lowWatch = none) (hin : (s.rx ch).input ≠ some false) (hplace : placeAtMark s ch = some place) :
    exec (.markQualified ch) s =
      .next (s.withRx ch { s.rx ch with markQualified := true, input := some true, place := place }) := by
  refine congrArg Host.Outcome.next ((whenListening_hears h _).trans ?_)
  simp only [hplace]
  exact if_neg (by simpa [hlow, Receiver.canGoTo, hstate] using hin)

theorem exec_markQualified_keeps (hplace : placeAtMark s ch = none) : exec (.markQualified ch) s = .next s :=
  congrArg Host.Outcome.next (whenListening_keeps ch (by simp only [hplace, ite_self]))

/-- The ones with which some bits end stand at their end. -/
theorem endingOnes_le (bits : List Bool) : endingOnes bits ≤ bits.length := by
  rw [endingOnes, ← List.length_reverse (as := bits)]
  exact (List.takeWhile_prefix _).length_le

theorem getElem?_endingOnes {bits : List Bool} {k : Nat} (hlo : bits.length - endingOnes bits ≤ k) (hhi : k < bits.length) :
    bits[k]? = some true := by
  have hindex : bits.length - 1 - k < (bits.reverse.takeWhile id).length := by
    rw [endingOnes] at hlo
    omega
  have hone : id (bits.reverse.takeWhile id)[bits.length - 1 - k] = true :=
    List.mem_takeWhile_imp (List.getElem_mem hindex)
  rw [id, (List.takeWhile_prefix id).getElem hindex, List.getElem_reverse] at hone
  rw [List.getElem?_eq_some_iff]
  refine ⟨hhi, ?_⟩
  simpa only [show bits.length - 1 - (bits.length - 1 - k) = k by omega] using hone

/-- Where no run of bits at 1 lasts for a bit time of mark, none has ended with the first `j` bits. -/
theorem markAt_of_short {p : LinePlace} {bits : List Bool} {before other own : Nat} (hbefore : p.before = some before)
    (hshort : ∀ i n : Nat, (∀ j, i ≤ j → j < i + n → bits[j]? = some true) →
      ((if i = 0 then before else 0) + n) * other < own) (j : Nat) :
    p.markAt bits (2 * other) (2 * own) j = false := by
  have hle : endingOnes (bits.take j) ≤ (bits.take j).length := endingOnes_le _
  have hrun : ∀ k, (bits.take j).length - endingOnes (bits.take j) ≤ k →
      k < (bits.take j).length - endingOnes (bits.take j) + endingOnes (bits.take j) → bits[k]? = some true := by
    intro k hlo hhi
    have hk : k < (bits.take j).length := by omega
    have hkj : k < j := hk.trans_le (List.length_take_le j bits)
    rw [← List.getElem?_take_of_lt hkj]
    exact getElem?_endingOnes hlo hk
  have hlast := hshort _ _ hrun
  have hones : ∀ ones, p.onesTo (bits.take j) = some ones → ones * other < own := by
    intro ones hto
    rw [LinePlace.onesTo] at hto
    split at hto
    next hall =>
      obtain rfl : before + endingOnes (bits.take j) = ones := by simpa [hbefore] using hto
      simpa [hall] using hlast
    next hsome =>
      obtain rfl := Option.some.inj hto
      exact (Nat.mul_le_mul_right _ (Nat.le_add_left _ _)).trans_lt hlast
  obtain ⟨ones, hto⟩ : ∃ ones, p.onesTo (bits.take j) = some ones := by
    rw [LinePlace.onesTo]
    split
    · exact ⟨_, by rw [hbefore]; rfl⟩
    · exact ⟨_, rfl⟩
  have hdue : ¬ 2 * own ≤ ones * (2 * other) := by
    have := hones ones hto
    rw [Nat.mul_left_comm]
    omega
  simp [LinePlace.markAt, hto, hdue]

/-- No bits of the line last for a bit time of mark, so none qualifies (R116). -/
theorem placeAtMark_hasNoMark (h : s.hasNoMark ch) : placeAtMark s ch = none := by
  obtain ⟨bits, before, hline, hbefore, hshort⟩ := h
  obtain ⟨hl, hout, rfl⟩ := lineShows_bits hline
  have hout : ¬ (s.chan (otherChannel ch)).tx.out = .mark := hout
  have hnone : ∀ j, (s.rx ch).place.markAt (s.chan (otherChannel ch)).lineBits (lineUnit s ch)
      (2 * (s.chan ch).config.divisor) j = false := markAt_of_short hbefore hshort
  unfold placeAtMark
  simp [hl, hout, hnone]

/-- Nor does one where the input cannot have stood at 1. -/
theorem placeAtMark_held (h : ¬ s.mayBeAtMark ch) : placeAtMark s ch = none := by
  have hcan : canBeAtMark s ch = false := by rwa [← Bool.not_eq_true, canBeAtMark_said]
  have hl : s.ser.loop = true := by
    by_contra hl
    exact h (.inl (.inl (by simpa using hl)))
  have hout : ((s.chan (otherChannel ch)).tx.out == .mark) = false := by
    rw [beq_eq_false_iff_ne]
    intro hmark
    refine h (.inl (.inr ?_))
    have hmark : (s.tx (otherChannel ch)).out = .mark := hmark
    simp [hmark]
  unfold placeAtMark
  simp [hl, hout, hcan]

/-! ## The order of what is heard (R111) -/

/-- A fall that is left to hear is the next one, or comes behind it. -/
theorem nextFall_of_left {i : Nat} (h : s.fallLeft ch i) : ∃ k, nextFall s ch = some k ∧ k ≤ i := by
  obtain ⟨hfall, hheard, hfirst⟩ := fallLeft_said s ch i h
  obtain ⟨-, hzero, -⟩ := lineCarries_of_fall s ch i hfall
  have hlt : i < (s.chan (otherChannel ch)).lineBits.length := (List.getElem?_eq_some_iff.1 hzero).1
  have hsome : (nextFall s ch).isSome = true := by
    rw [nextFall, List.find?_isSome]
    exact ⟨i, List.mem_range.2 hlt, by simp [hfall, hheard]⟩
  obtain ⟨k, hk⟩ := Option.isSome_iff_exists.1 hsome
  exact ⟨k, hk, hfirst k hk⟩

theorem exec_rxFall_behind {fall : Fall} {i : Nat} (htracked : (s.rx ch).place.tracked = true) (hleft : s.fallLeft ch i)
    (hi : i < fall.bit.val) : exec (.rxFall ch fall) s = .next s := by
  obtain ⟨k, hk, hki⟩ := nextFall_of_left hleft
  refine exec_rxFall_keeps hleft.1 ?_
  rw [Option.eq_none_iff_forall_ne_some]
  intro heard hheard
  have hnext := loopHeard_next s ch _ heard hheard htracked
  have heq : k = fall.bit.val := Option.some.inj (hk.symm.trans hnext)
  omega

theorem placeAtMark_before_fall {i : Nat} {place : LinePlace} (htracked : (s.rx ch).place.tracked = true)
    (hleft : s.fallLeft ch i) (hplace : placeAtMark s ch = some place) :
    place.heard ≤ max (s.rx ch).place.heard (i * (2 * (s.chan (otherChannel ch)).config.divisor)) := by
  obtain ⟨k, hk, hki⟩ := nextFall_of_left hleft
  obtain ⟨-, -, hbefore⟩ := placeAtMark_heard s ch place hplace
  exact (hbefore htracked k hk).trans (max_le_max (Nat.le_refl _) (Nat.mul_le_mul_right _ hki))

/-- The mark with which the line ended qualifies the receiver before the line falls with its first bit. -/
theorem fallIsNext_unqualified {before : Nat} (htracked : (s.rx ch).place.tracked = true)
    (hwhole : (s.rx ch).place.whole = true) (hbefore : (s.rx ch).place.before = some before)
    (hlong : (s.chan ch).config.divisor ≤ before * (s.chan (otherChannel ch)).config.divisor)
    (hstate : (s.rx ch).state = .idle ∨ (s.rx ch).state = .inFrame) (hqualified : (s.rx ch).markQualified = false) :
    fallIsNext s ch 0 = false := by
  have hdue : (s.rx ch).place.markDue (s.chan (otherChannel ch)).lineBits (lineUnit s ch) (2 * (s.chan ch).config.divisor) 0 =
      true := by
    have hones : (s.rx ch).place.onesTo ((s.chan (otherChannel ch)).lineBits.take 0) = some before := by
      simp [LinePlace.onesTo, endingOnes, hbefore]
    have hlast : 2 * (s.chan ch).config.divisor ≤ before * (2 * (s.chan (otherChannel ch)).config.divisor) := by
      rw [Nat.mul_left_comm]
      omega
    rw [LinePlace.markDue, hones, hwhole]
    exact decide_eq_true hlast
  have htracked : (s.chan ch).rx.place.tracked = true := htracked
  have hqualified : (s.chan ch).rx.markQualified = false := hqualified
  have hdue : (s.chan ch).rx.place.markDue (s.chan (otherChannel ch)).lineBits (lineUnit s ch)
      (2 * (s.chan ch).config.divisor) 0 = true := hdue
  unfold fallIsNext
  obtain hstate | hstate := hstate
  · have hstate : (s.chan ch).rx.state = .idle := hstate
    simp [hstate, htracked, hqualified, hdue]
  · have hstate : (s.chan ch).rx.state = .inFrame := hstate
    simp [hstate, htracked, hqualified, hdue]

/-- A sample of the character in hand, or the end of the gap, comes before the fall. -/
theorem fallIsNext_sample {k : Nat} {h : LoopHeard} (hstate : (s.rx ch).state = .inChar) (hlooped : (s.rx ch).looped = some h)
    (hdue : sampleDue s ch h (sinceFall s ch h k) = true) : fallIsNext s ch k = false := by
  have hstate : (s.chan ch).rx.state = .inChar := hstate
  have hlooped : (s.chan ch).rx.looped = some h := hlooped
  simp [fallIsNext, hstate, hlooped, hdue]

theorem fallIsNext_gap {k m : Nat} (hstate : (s.rx ch).state = .inFrame) (htracked : (s.rx ch).place.tracked = true)
    (hm : markHeard s ch (k * lineUnit s ch) = some m) (hlong : gapLength s ch < m) : fallIsNext s ch k = false := by
  have hstate : (s.chan ch).rx.state = .inFrame := hstate
  have htracked : (s.chan ch).rx.place.tracked = true := htracked
  simp [fallIsNext, hstate, htracked, hm, Nat.not_le.2 hlong]

/-- What a rise does with a low in hand whose line is known (R118, R119). -/
theorem rxRise_of_looped {low : LowWatch} {h : LoopHeard} (hhears : s.hears ch) (hl : s.ser.loop = true)
    (hlow : (s.rx ch).lowWatch = some low) (hlooped : low.looped = some h) :
    ((∀ b ∈ h.bits, b = false) → (∃ since, h.after = .carries since) → exec (.rxRise ch) s = .next s) ∧
    ((s.rx ch).state ≠ .brk → s.mayLastLow ch low → exec (.rxRise ch) s = .next s) ∧
    (1 ≤ h.divisor → true ∈ h.bits → s.mayStandAt ch true → (s.rx ch).state = .brk ∨ ¬ s.mayLastLow ch low →
      ∃ t, exec (.rxRise ch) s = .next t ∧ (t.rx ch).lowWatch = none) := by
  refine ⟨fun hzero ⟨since, hafter⟩ => ?_, fun hstate hlong => ?_, fun hd hone hmay hshort => ?_⟩
  · exact exec_rxRise_keeps (placeAtRise_low hl hlow hlooped (risesAt_none hzero hafter))
  · exact exec_rxRise_keeps (placeAtRise_break hl hlow hlooped hstate hlong)
  · obtain ⟨j, hj⟩ := risesAt_some hd hone
    have hplace := placeAtRise_looped hl hlow hlooped hmay hshort
    rw [hj, Option.map_some] at hplace
    exact ⟨_, exec_rxRise_takes hhears hplace, by rw [withRx_rx]; exact rise_lowWatch _⟩

end

/-- Settles O37: a fall, a rise and a bit time of mark are taken where the pin or the looped line gives them, and the order of
what is heard is that of the other transmitter's bits. -/
theorem inputLevelsMoveTheReceiver : Obligations.InputLevelsMoveTheReceiver := by
  unfold Obligations.InputLevelsMoveTheReceiver
  intro s ch fall hhears
  refine ⟨fun heard place hlow hin hfall => ?taken, exec_rxFall_unheard, gapRaised_off, fun place hplace => ?rises,
    placeAtRise_off s ch, fun low h hl => rxRise_of_looped hhears hl, fun hstate hlow hin => ?marks, ?noMark, ?noRise,
    fun hheld => exec_markQualified_keeps (placeAtMark_held hheld), fun i htracked hleft =>
      ⟨exec_rxFall_behind htracked hleft, fun place => placeAtMark_before_fall htracked hleft⟩, ?markFirst, ?otherFirst⟩
  case taken =>
    have htakes := exec_rxFall_takes hhears hlow hin hfall
    refine ⟨fun hstate => ?_, fun hstate => ?_, fun hstate => ?_⟩
    · rw [htakes, fall_of_idle hstate]
    · rw [htakes, fall_of_inFrame hstate]
    · rw [htakes, fall_of_inChar hstate]
  case rises =>
    have htakes := exec_rxRise_takes hhears hplace
    exact ⟨fun hstate => by rw [htakes, rise_of_not_brk hstate], fun hstate => by rw [htakes, rise_of_brk hstate]⟩
  case marks =>
    have htakes := fun place => exec_markQualified_takes (place := place) hhears hstate hlow hin
    exact ⟨htakes, fun hrest => htakes _ (placeAtMark_rest s ch hrest)⟩
  case noMark =>
    exact fun hnone => exec_markQualified_keeps (hnone.elim id placeAtMark_hasNoMark)
  case noRise =>
    exact fun hnone => exec_rxRise_keeps (hnone.elim id placeAtRise_held)
  case markFirst =>
    intro before hl htracked hwhole hbefore hlong hstate hqualified hbit
    exact exec_rxFall_early hl (hbit ▸ fallIsNext_unqualified htracked hwhole hbefore hlong hstate hqualified)
  case otherFirst =>
    intro hl hdue
    refine exec_rxFall_early hl ?_
    obtain ⟨hstate, h, hlooped, hsample⟩ | ⟨hstate, htracked, m, hm, hlong⟩ := hdue
    · exact fallIsNext_sample hstate hlooped hsample
    · exact fallIsNext_gap hstate htracked hm hlong

end Sys2Proof.Machine
end
